-- ==== Sys2Proof/Word.lean ====
section
/-! DEFINITION. The word types of the gridsram CORE (00_scope.md R8, R9: every value is unsigned). -/

namespace Sys2Proof

/-- A byte of either host stream, of the SRAM or of the data lines (00_scope.md R6, `DATA_BITS`). -/
abbrev Byte := BitVec 8

/-- A wire address or a serialised address (00_scope.md R6, `WIRE_ADDR_BITS`, `SER_BITS`). -/
abbrev Addr := BitVec 24

/-- The transfer index (10_state.md R25). -/
abbrev Idx := BitVec 18

end Sys2Proof
end

