-- ==== Sys2Proof/Syntax.lean ====
section
/-! DEFINITION. The CORE's instructions: the command frames of spec/opcode_table.json, one constructor for each row
(30_encoding.md R95, R97). -/

namespace Sys2Proof

/-- A command with the operands of its frame. -/
inductive Instr where
  /-- `S`: Status (43_commands.md R212). -/
  | status
  /-- `R`: Read of `[startA, endA)` (43_commands.md R216). -/
  | read (startA endA : Addr)
  /-- `W`: Write of `[startA, endA)` (43_commands.md R220). -/
  | write (startA endA : Addr)
  /-- Any other instruction byte (43_commands.md R224). -/
  | unknown (op : Byte)
deriving DecidableEq, Repr

end Sys2Proof
end

