-- ==== Sys2Proof/WellFormed.lean ====
section
/-! DEFINITION. Which terms of `Instr` stand for a frame. -/

namespace Sys2Proof

/-- The three instruction bytes with a meaning of their own (30_encoding.md R95, R97). -/
def commandBytes : List Byte := [0x53, 0x52, 0x57]

/-- An unknown command's byte is none of the three command bytes (30_encoding.md R96). An address field may hold any
24-bit value: the range is checked when the command runs, not by the encoding (30_encoding.md R100). -/
def Instr.wellFormed : Instr → Bool
  | .status => true
  | .read _ _ => true
  | .write _ _ => true
  | .unknown op => !commandBytes.contains op

end Sys2Proof
end

