-- ==== Sys2Proof/Decode.lean ====
section
/-! DEFINITION. Command frames: decoding, encoding and the host's table words (30_encoding.md). -/

namespace Sys2Proof

/-- `'S'`, as an instruction byte (30_encoding.md R90, R95). -/
def opStatus : Byte := 0x53
/-- `'R'`, as an instruction byte. -/
def opRead : Byte := 0x52
/-- `'W'`, as an instruction byte. -/
def opWrite : Byte := 0x57

/-- `SYNC[k]` of `"SRAM"` (00_scope.md R6, 30_encoding.md R91). -/
def syncByte : Fin 4 → Byte
  | 0 => 0x53
  | 1 => 0x52
  | 2 => 0x41
  | 3 => 0x4D

/-- The sync marker `"SRAM"`. -/
def syncMarker : List Byte := [syncByte 0, syncByte 1, syncByte 2, syncByte 3]

/-- An address from its three bytes, most significant first (30_encoding.md R99). -/
def assembleAddr (hi mid lo : Byte) : Addr := hi ++ mid ++ lo

/-- The three bytes of an address, most significant first (30_encoding.md R91). -/
def addrBytes (a : Addr) : List Byte :=
  [a.extractLsb' 16 8, a.extractLsb' 8 8, a.extractLsb' 0 8]

/-- Why bytes are no frame. -/
inductive DecodeError where
  /-- Fewer bytes than the frame's format needs (30_encoding.md R92). -/
  | incomplete
  /-- The first four bytes are not `"SRAM"` (30_encoding.md R91). -/
  | noSyncMarker
deriving DecidableEq, Repr

/-- The two addresses of format `F_RW` (30_encoding.md R91, R99), given to a constructor. -/
def decodeRange (make : Addr → Addr → Instr) : List Byte → Except DecodeError (Instr × List Byte)
  | s2 :: s1 :: s0 :: e2 :: e1 :: e0 :: rest =>
      .ok (make (assembleAddr s2 s1 s0) (assembleAddr e2 e1 e0), rest)
  | _ => .error .incomplete

/-- What follows the instruction byte, by the opcode map (30_encoding.md R94, R95, R96). -/
def decodeOp (op : Byte) (rest : List Byte) : Except DecodeError (Instr × List Byte) :=
  if op = opStatus then .ok (.status, rest)
  else if op = opRead then decodeRange .read rest
  else if op = opWrite then decodeRange .write rest
  else .ok (.unknown op, rest)

/-- A frame at the head of a byte stream, with the bytes after it (30_encoding.md R91, R92). -/
def decode : List Byte → Except DecodeError (Instr × List Byte)
  | b0 :: b1 :: b2 :: b3 :: op :: rest =>
      if [b0, b1, b2, b3] = syncMarker then decodeOp op rest else .error .noSyncMarker
  | _ => .error .incomplete

/-- The bytes of a command's frame (30_encoding.md R91, R92). -/
def encode : Instr → List Byte
  | .status => syncMarker ++ [opStatus]
  | .read a b => syncMarker ++ [opRead] ++ addrBytes a ++ addrBytes b
  | .write a b => syncMarker ++ [opWrite] ++ addrBytes a ++ addrBytes b
  | .unknown op => syncMarker ++ [op]

/-- The length of a command's frame in bytes (30_encoding.md R92). -/
def frameLength : Instr → Nat
  | .status => 5
  | .read _ _ => 11
  | .write _ _ => 11
  | .unknown _ => 5

/-- The longest frame. -/
def maxFrameLength : Nat := 11

/-- The `n` low bytes of a number, the least significant first. -/
def lowBytes : Nat → Nat → List Byte
  | 0, _ => []
  | n + 1, w => BitVec.ofNat 8 w :: lowBytes n (w / 256)

/-- A byte list filled up with zeros to the longest frame. -/
def padFrame (bs : List Byte) : List Byte :=
  bs ++ List.replicate (maxFrameLength - bs.length) 0

/-- The frame bytes of a table word of `nbits` bits, in stream order. The host numbers the first byte as the least
significant; the table's own `match` is the frame's bytes as one big-endian value (its note), of the whole word or of
the first five bytes. The first of these readings that begins with the sync marker is taken (log entry 2). -/
def tableFrame (nbits w : Nat) : List Byte :=
  let n := nbits / 8
  let low := padFrame (lowBytes n w)
  let big := padFrame (lowBytes n w).reverse
  let big5 := padFrame (lowBytes 5 w).reverse
  if low.take 4 = syncMarker then low
  else if big.take 4 = syncMarker then big
  else if big5.take 4 = syncMarker then big5
  else low

/-- The instruction the decoder reads from a table word. -/
def decodeTableWord (nbits w : Nat) : Option Instr :=
  match decode (tableFrame nbits w) with
  | .ok (i, _) => some i
  | .error _ => none

end Sys2Proof
end

