-- ==== Sys2Proof/Config.lean ====
section
/-! DEFINITION. What a build of the CORE fixes (00_scope.md R6, R7), and the free values: what the spec says may be
any value (93_implementation_defined.md I5, I6, I8). -/

namespace Sys2Proof.Config

/-- The SRAM's size in bytes (00_scope.md R6). -/
def memSize : Nat := 0x20000

/-- The bytes of one flow-control window (00_scope.md R6, 44_flow_control.md R240). -/
def windowSize : Nat := 32

/-- The bits SERIALIZE sends (00_scope.md R6). -/
def serBits : Nat := 24

/-- `T_SR`, 1 microsecond, in nanoseconds (00_scope.md R6). -/
def tSrNs : Nat := 1000

/-- What answers on the data lines (20_memory.md R70): the reference SRAM, or a chip about whose data nothing is
known, so that every sampled byte is a draw (93_implementation_defined.md I5). -/
inductive ChipModel where
  | reference
  | free
deriving DecidableEq, Repr

/-- A piece of a bound message: fixed text, or the decimal value it reports. -/
inductive TextPart where
  | text (bs : List Byte)
  | decimal
deriving DecidableEq, Repr

/-- `MSG_START_OOB` or `MSG_END_OOB` as plain data: the pieces of the message, and the values whose message is another
one. Every function of the reported value has this form (`exists_boundText`; log entry 10). -/
structure BoundText where
  /-- The pieces, in order. -/
  parts : List TextPart
  /-- The values with a message of their own. -/
  special : List (Addr × List Byte)
deriving DecidableEq, Repr

/-- The open parameters of 00_scope.md R7. -/
structure Params where
  /-- `F_CLK` in Hz. -/
  fClkHz : Nat
  /-- `T_BUS` in nanoseconds. -/
  tBusNs : Nat
  /-- `SETTLE_CYCLES_SR`. -/
  settleSr : Nat
  /-- `SETTLE_CYCLES_BUS`. -/
  settleBus : Nat
  /-- `ENABLE_ACTIVE_LOW`. -/
  enableActiveLow : Bool
  /-- `ABORT_TO_IDLE`. -/
  abortToIdle : Bool
  /-- `SYNC_RETEST`. -/
  syncRetest : Bool
  /-- `MSG_START_OOB`. -/
  msgStartOob : BoundText
  /-- `MSG_END_OOB`. -/
  msgEndOob : BoundText
  /-- `MSG_RANGE_ORDER`. -/
  msgRangeOrder : List Byte
  /-- `MSG_FLOW_DESYNC`. -/
  msgFlowDesync : List Byte
  /-- `MSG_UNKNOWN_CMD`. -/
  msgUnknownCmd : List Byte
  /-- The chip on the data lines (the environment's, not the CORE's). -/
  chip : ChipModel
deriving DecidableEq, Repr

/-- Free value: the byte the SRAM holds at an address at first power-up (20_memory.md R70; log entry 5). -/
opaque powerUpByte : Nat → Byte

/-- Free value: the n-th byte drawn for a sample that the reference SRAM does not determine (10_state.md R34,
93_implementation_defined.md I5; log entry 6). -/
opaque drawnByte : Nat → Byte

/-- Free value: the SRAM byte left where a write pulse was cut by reset, for the n-th draw (70_reset_and_hazards.md
R341, 93_implementation_defined.md I8; log entry 7). -/
opaque cutByte : Nat → Byte

end Sys2Proof.Config
end

