-- ==== Sys2Proof/Machine/Build.lean ====
section
/-! DEFINITION. The default build: the default of every open parameter (00_scope.md R7, 45_response_encoder.md R270). -/

namespace Sys2Proof.Machine

/-- `ceil(T * F_CLK)`, `T` in nanoseconds and `F_CLK` in Hz (92_eei_decisions.md D11). -/
def settleCycles (tNs fHz : Nat) : Nat := (tNs * fHz + 999999999) / 1000000000

/-- The text " address out of bounds: ". -/
def textOutOfBounds : List Byte :=
  [0x20, 0x61, 0x64, 0x64, 0x72, 0x65, 0x73, 0x73, 0x20, 0x6F, 0x75, 0x74, 0x20, 0x6F, 0x66, 0x20,
   0x62, 0x6F, 0x75, 0x6E, 0x64, 0x73, 0x3A, 0x20]

/-- The text "Starting". -/
def textStarting : List Byte := [0x53, 0x74, 0x61, 0x72, 0x74, 0x69, 0x6E, 0x67]

/-- The text "Ending". -/
def textEnding : List Byte := [0x45, 0x6E, 0x64, 0x69, 0x6E, 0x67]

/-- The text "address bounds out of order". -/
def textRangeOrder : List Byte :=
  [0x61, 0x64, 0x64, 0x72, 0x65, 0x73, 0x73, 0x20, 0x62, 0x6F, 0x75, 0x6E, 0x64, 0x73, 0x20, 0x6F,
   0x75, 0x74, 0x20, 0x6F, 0x66, 0x20, 0x6F, 0x72, 0x64, 0x65, 0x72]

/-- The text "unexpected continuation from client". -/
def textFlowDesync : List Byte :=
  [0x75, 0x6E, 0x65, 0x78, 0x70, 0x65, 0x63, 0x74, 0x65, 0x64, 0x20, 0x63, 0x6F, 0x6E, 0x74, 0x69,
   0x6E, 0x75, 0x61, 0x74, 0x69, 0x6F, 0x6E, 0x20, 0x66, 0x72, 0x6F, 0x6D, 0x20, 0x63, 0x6C, 0x69,
   0x65, 0x6E, 0x74]

/-- The text "Unknown command". -/
def textUnknownCmd : List Byte :=
  [0x55, 0x6E, 0x6B, 0x6E, 0x6F, 0x77, 0x6E, 0x20, 0x63, 0x6F, 0x6D, 0x6D, 0x61, 0x6E, 0x64]

/-- The clock of the default build, 1 MHz. DESIGN CHOICE: `F_CLK` has no default (00_scope.md R7; log entry 9). -/
def defaultClkHz : Nat := 1000000

/-- The default parameters (00_scope.md R7). -/
def defaultParams : Config.Params where
  fClkHz := defaultClkHz
  tBusNs := 1000
  settleSr := settleCycles Config.tSrNs defaultClkHz
  settleBus := settleCycles 1000 defaultClkHz
  enableActiveLow := true
  abortToIdle := true
  syncRetest := false
  msgStartOob := { parts := [.text (textStarting ++ textOutOfBounds), .decimal], special := [] }
  msgEndOob := { parts := [.text (textEnding ++ textOutOfBounds), .decimal], special := [] }
  msgRangeOrder := textRangeOrder
  msgFlowDesync := textFlowDesync
  msgUnknownCmd := textUnknownCmd
  chip := .reference

end Sys2Proof.Machine
end

