-- ==== Sys2Proof/Machine/State.lean ====
section
/-! DEFINITION. The machine's state as plain data, the reasons it stops, and the state after reset. -/

namespace Sys2Proof.Machine

open Sys2Proof.Config (Params)

/-- The control state, the CORE's stand-in for a program counter (10_state.md R22). `sync k` is SYNCk and `addr k` is
ADDRk. -/
inductive Ctl where
  | sync (k : Fin 4)
  | instr
  | addr (k : Fin 6)
  | check
  | sOk
  | rEnter
  | rAnnounce
  | rToken0
  | rToken1
  | rTokchk
  | rRead
  | rSend
  | wEnter
  | wGrant
  | wRecv
  | wWrite
  | doneOk
  | doneIdle
  | errEmit
  | errIdle
deriving DecidableEq, Repr

/-- The error causes (60_exceptions.md R300). -/
inductive Cause where
  | none
  | startOob
  | endOob
  | rangeOrder
  | flowDesync
  | unknownCmd
deriving DecidableEq, Repr

/-- Which event of SERIALIZE comes next (10_state.md R38, 40_address_serializer.md R131): the data line, the rising
edge, the falling edge, each followed by its settle interval; `idle` while no SERIALIZE runs. -/
inductive SerPhase where
  | idle
  | data
  | settleData
  | rise
  | settleRise
  | fall
  | settleFall
deriving DecidableEq, Repr

/-- Which event of READ_BYTE or WRITE_BYTE comes next (10_state.md R38, 41_bus_mode_controller.md R156, R158); `idle`
while no transaction runs. -/
inductive BusPhase where
  | idle
  | serialize
  | settleAddr
  | drive
  | assertEnable
  | settleEnable
  | sample
  | deassert
  | settleHold
deriving DecidableEq, Repr

/-- The response frames (30_encoding.md R102). -/
inductive FrameKind where
  /-- Success, "OK". -/
  | ok
  /-- Continue, "CO". -/
  | co
  /-- Error, "NG" and a message. -/
  | ng
deriving DecidableEq, Repr

/-- A change of one output pin (10_state.md R30). -/
inductive PinChange where
  | srData (v : Bool)
  | srClk (v : Bool)
  | oeAct (v : Bool)
  | weAct (v : Bool)
  | dOe (v : Bool)
  | dOut (v : Byte)
deriving DecidableEq, Repr

/-- An event of the trace (00_scope.md R13). -/
inductive Event where
  /-- `RX(b)`: a byte accepted from the host. -/
  | rx (b : Byte)
  /-- `TX(b)`: a byte accepted by the host. -/
  | tx (b : Byte)
  /-- `PIN(p, v)`: output pin `p` changes to `v`. -/
  | pin (p : PinChange)
  /-- `SAMPLE(v)`: the data lines latched. -/
  | sample (v : Byte)
deriving DecidableEq, Repr

/-- The SRAM contents: the bytes that have been written, addresses strictly rising. An unlisted address holds what it
held at power-up (log entry 5). -/
abbrev Memory := List Host.Cell

/-- The state of the CORE (10_state.md), of the environment the spec describes (20_memory.md R70,
40_address_serializer.md R133) and of the build (00_scope.md R7). -/
structure State where
  /-- Control state (R22). -/
  ctl : Ctl
  /-- Bus mode (R23): IDLE 00, READ 01, WRITE 10; 11 is unreachable. -/
  mode : BitVec 2
  /-- `start` (R24). -/
  startAddr : Addr
  /-- `end` (R24). -/
  endAddr : Addr
  /-- Transfer index (R25). -/
  idx : Idx
  /-- Instruction byte (R26). -/
  op : Byte
  /-- First token byte (R26). -/
  tok0 : Byte
  /-- Second token byte (R26). -/
  tok1 : Byte
  /-- The byte read from or to be written to the SRAM (R26). -/
  data : Byte
  /-- Cause of an abort in progress (R26, 60_exceptions.md R300). -/
  cause : Cause
  /-- The address a bound error reports (R26). -/
  causeVal : Addr
  /-- Output `rx_ready` (R27, R28). -/
  rxReady : Bool
  /-- Output `tx_valid` (R27, R29). -/
  txValid : Bool
  /-- Output `tx_data` (R27, R29). -/
  txData : Byte
  /-- Serial data line of the chain (R30). -/
  srData : Bool
  /-- Shift clock line of the chain (R30). -/
  srClk : Bool
  /-- Output-enable asserted (R30). -/
  oeAct : Bool
  /-- Write-enable asserted (R30). -/
  weAct : Bool
  /-- The CORE drives the data lines (R30, R32). -/
  dOe : Bool
  /-- The value driven on the data lines (R30, R32). -/
  dOut : Byte
  /-- The address being shifted (R38). -/
  serAddr : Addr
  /-- The bit being sent, counting down from 23 (R38). -/
  serBit : Fin 24
  /-- The next event of SERIALIZE (R38). -/
  serPhase : SerPhase
  /-- The next event of the bus transaction (R38). -/
  busPhase : BusPhase
  /-- Settle down-counter (R33, R38). -/
  dly : Nat
  /-- The frame being emitted (R39). -/
  encFrame : Option FrameKind
  /-- Index of the frame's next byte (R39). -/
  encPos : Nat
  /-- The host's channel: bytes sent and not yet accepted (R28). Environment. -/
  hostRx : List Byte
  /-- Input `tx_ready` (R29). Environment. -/
  txReady : Bool
  /-- Input `rst` (R27, 70_reset_and_hazards.md R340). Environment. -/
  rst : Bool
  /-- The shift-register chain (40_address_serializer.md R133). Environment. -/
  chain : BitVec 24
  /-- The SRAM contents (20_memory.md R70). Environment. -/
  mem : Memory
  /-- The build's parameters (00_scope.md R7). The model's field; no step writes it (log entry 9). -/
  cfg : Params
  /-- How many free bytes have been drawn. The model's field (log entry 8). -/
  draws : Nat
  /-- What has been observed, oldest event first (00_scope.md R13). The model's field (log entry 18). -/
  trace : List Event
deriving DecidableEq, Repr

/-- Why the machine stops. No run from reset reaches one of these. -/
inductive Fault where
  /-- Raised by `step` on `mode = 0b11` (10_state.md R23). Safe: the spec asks for the fault. -/
  | illegalMode
  /-- Raised by READ_BYTE outside READ (41_bus_mode_controller.md R160). Safe: the spec asks for the fault. -/
  | readOutsideReadMode
  /-- Raised by WRITE_BYTE outside WRITE (41_bus_mode_controller.md R160). Safe: the spec asks for the fault. -/
  | writeOutsideWriteMode
  /-- Raised by the clocked controller on a control label whose counters or operation byte no run of the pseudocode
  gives it (log entry 16). Safe: the spec gives such a state no behaviour, and no run reaches it. -/
  | badControl
deriving DecidableEq, Repr

/-- Why an instruction has no meaning. -/
inductive Refusal where
  /-- Raised by an arm of `exec` without a meaning; every arm has one. Safe. -/
  | notModelled (mnemonic : String)
deriving DecidableEq, Repr

/-- How a piece of a command's pseudocode ends. -/
inductive Flow where
  /-- It has completed; the next primitive follows. -/
  | go (s : State)
  /-- Nothing more of the command runs now: the CORE waits for the host in a primitive (10_state.md R28, R29), or the
  command has been left through its abort path (60_exceptions.md R307). -/
  | stop (s : State)
  /-- A precondition does not hold (41_bus_mode_controller.md R160). -/
  | fault (f : Fault)
deriving DecidableEq, Repr

/-- The machine right after reset (10_state.md R40, 70_reset_and_hazards.md R340), with the default build. -/
def State.reset : State where
  ctl := .sync 0
  mode := 0b00
  startAddr := 0
  endAddr := 0
  idx := 0
  op := 0
  tok0 := 0
  tok1 := 0
  data := 0
  cause := .none
  causeVal := 0
  rxReady := false
  txValid := false
  txData := 0
  srData := false
  srClk := false
  oeAct := false
  weAct := false
  dOe := false
  dOut := 0
  serAddr := 0
  serBit := 0
  serPhase := .idle
  busPhase := .idle
  dly := 0
  encFrame := .none
  encPos := 0
  hostRx := []
  txReady := true
  rst := false
  chain := 0
  mem := []
  cfg := defaultParams
  draws := 0
  trace := []

end Sys2Proof.Machine
end

