-- ==== Sys2Proof/Machine/Flags.lean ====
section
/-! DEFINITION. The CORE stores no flags (10_state.md R35): each comparison chooses the next control state at once.
These are the comparisons. -/

namespace Sys2Proof.Machine

/-- VALIDATE (42_command_framer.md R188): the first failing check's cause and the address it reports, or nothing for a
valid range. All comparisons are of the full 24-bit values (30_encoding.md R100). -/
def validate (a b : Addr) : Option (Cause × Option Addr) :=
  if ¬ a.toNat < Config.memSize then some (.startOob, some a)
  else if ¬ b.toNat ≤ Config.memSize then some (.endOob, some b)
  else if ¬ a.toNat < b.toNat then some (.rangeOrder, none)
  else none

/-- Both token bytes are `"CO"` (44_flow_control.md R242, R243). -/
def tokenMatches (t0 t1 : Byte) : Bool := t0 == 0x43 && t1 == 0x4F

/-- An index begins a window (44_flow_control.md R241). -/
def atWindowStart (i : Idx) : Bool := i.toNat % Config.windowSize == 0

/-- The label after byte `b` in SYNCk (42_command_framer.md R182). -/
def syncNext (retest : Bool) (k : Fin 4) (b : Byte) : Ctl :=
  if b = syncByte k then
    match k with
    | 0 => .sync 1
    | 1 => .sync 2
    | 2 => .sync 3
    | 3 => .instr
  else if retest && b == syncByte 0 then .sync 1
  else .sync 0

end Sys2Proof.Machine
end

