-- ==== Sys2Proof/Machine/Operands.lean ====
section
/-! DEFINITION. The operands: the two addresses of a range, the current byte's address, the transfer length
(30_encoding.md R99, 44_flow_control.md R247). -/

namespace Sys2Proof.Machine

/-- `start` and `end` with address byte `k` written (42_command_framer.md R186): each address most significant byte
first. The bytes go into the registers as they arrive (log entry 11). -/
def storeAddrByte (k : Fin 6) (b : Byte) (s : State) : State :=
  match k with
  | 0 => { s with startAddr := assembleAddr b (s.startAddr.extractLsb' 8 8) (s.startAddr.extractLsb' 0 8) }
  | 1 => { s with startAddr := assembleAddr (s.startAddr.extractLsb' 16 8) b (s.startAddr.extractLsb' 0 8) }
  | 2 => { s with startAddr := assembleAddr (s.startAddr.extractLsb' 16 8) (s.startAddr.extractLsb' 8 8) b }
  | 3 => { s with endAddr := assembleAddr b (s.endAddr.extractLsb' 8 8) (s.endAddr.extractLsb' 0 8) }
  | 4 => { s with endAddr := assembleAddr (s.endAddr.extractLsb' 16 8) b (s.endAddr.extractLsb' 0 8) }
  | 5 => { s with endAddr := assembleAddr (s.endAddr.extractLsb' 16 8) (s.endAddr.extractLsb' 8 8) b }

/-- The label after address byte `k` (42_command_framer.md R186, R187). -/
def addrNext : Fin 6 → Ctl
  | 0 => .addr 1
  | 1 => .addr 2
  | 2 => .addr 3
  | 3 => .addr 4
  | 4 => .addr 5
  | 5 => .check

/-- The length `end - start` of the range (44_flow_control.md R247; 0 where `end` is not above `start`). -/
def rangeLen (s : State) : Nat := s.endAddr.toNat - s.startAddr.toNat

/-- The SRAM address of the current byte, `start + idx` (10_state.md R25). -/
def byteAddr (s : State) : Addr := s.startAddr + s.idx.setWidth 24

end Sys2Proof.Machine
end

