-- ==== Sys2Proof/Machine/Ops.lean ====
section
/-! DEFINITION. The shared operations: SRAM and chain (20_memory.md R70, 40_address_serializer.md R133), pins, host
streams, SERIALIZE, the bus mode controller, the response encoder, and the abort procedure. -/

namespace Sys2Proof.Machine

/-! ## The SRAM -/

/-- The byte listed for an address, if it has been written. -/
def memLookup : Memory → Nat → Option Byte
  | [], _ => none
  | (k, v) :: m, a => if k = a then some v else memLookup m a

/-- The byte the SRAM holds at an address: what was last written, else its power-up content (20_memory.md R70). -/
def memRead (m : Memory) (a : Nat) : Byte := (memLookup m a).getD (Config.powerUpByte a)

/-- The SRAM contents with one byte written, in canonical form. -/
def memWrite : Memory → Nat → Byte → Memory
  | [], a, b => [(a, b)]
  | (k, v) :: m, a, b =>
      if a < k then (a, b) :: (k, v) :: m
      else if a = k then (a, b) :: m
      else (k, v) :: memWrite m a b

/-- The canonical form: addresses strictly rising, each below MEM_SIZE. An unlisted address has no stored byte, so
there is no entry equal to what it reads as. -/
abbrev memWf (m : Memory) : Prop :=
  m.Pairwise (fun c d => c.1 < d.1) ∧ ∀ c ∈ m, c.1 < Config.memSize

/-- The address the chip sees: `chain[16:0]` (40_address_serializer.md R133). -/
def chipAddr (s : State) : Nat := (s.chain.extractLsb' 0 17).toNat

/-! ## Output pins

`Pin(p) <- v` writes the register of `p`, and is an event only if the value changes (10_state.md R30). The chain and
the SRAM react to the edges of `sr_clk` and `we_act`. -/

/-- The event of a pin write, if the value changes. -/
def pinEvent (changed : Bool) (p : PinChange) : List Event := if changed then [.pin p] else []

/-- `Pin(sr_data) <- v`. -/
def setSrData (v : Bool) (s : State) : State :=
  { s with srData := v, trace := s.trace ++ pinEvent (s.srData != v) (.srData v) }

/-- The chain shifted by one stage (40_address_serializer.md R133): `{ chain[22:0], sr_data }`. -/
def shiftChain (c : BitVec 24) (b : Bool) : BitVec 24 := c.extractLsb' 0 23 ++ BitVec.ofBool b

/-- `Pin(sr_clk) <- v`; a rising edge shifts the chain (log entry 4). -/
def setSrClk (v : Bool) (s : State) : State :=
  { s with
    srClk := v
    chain := if !s.srClk && v then shiftChain s.chain s.srData else s.chain
    trace := s.trace ++ pinEvent (s.srClk != v) (.srClk v) }

/-- `Pin(oe_act) <- v`. -/
def setOeAct (v : Bool) (s : State) : State :=
  { s with oeAct := v, trace := s.trace ++ pinEvent (s.oeAct != v) (.oeAct v) }

/-- `Pin(we_act) <- v`; a falling edge while the CORE drives the data lines commits the byte (20_memory.md R70).
DESIGN CHOICE: the contents follow the reference rule whichever chip is attached (log entry 25). -/
def setWeAct (v : Bool) (s : State) : State :=
  { s with
    weAct := v
    mem := if s.weAct && !v && s.dOe then memWrite s.mem (chipAddr s) s.dOut else s.mem
    trace := s.trace ++ pinEvent (s.weAct != v) (.weAct v) }

/-- `Pin(d_oe) <- v`. -/
def setDOe (v : Bool) (s : State) : State :=
  { s with dOe := v, trace := s.trace ++ pinEvent (s.dOe != v) (.dOe v) }

/-- `Pin(d_out) <- v`. -/
def setDOut (v : Byte) (s : State) : State :=
  { s with dOut := v, trace := s.trace ++ pinEvent (s.dOut != v) (.dOut v) }

/-- The electrical level of `sram_oe` (10_state.md R31). -/
def sramOe (s : State) : Bool := s.oeAct ^^ s.cfg.enableActiveLow

/-- The electrical level of `sram_we` (10_state.md R31). -/
def sramWe (s : State) : Bool := s.weAct ^^ s.cfg.enableActiveLow

/-- The electrical value of `sram_d_oe` (10_state.md R32). -/
def sramDOe (s : State) : Bool := s.dOe

/-- Whether the reference SRAM determines the data lines (20_memory.md R70). -/
def chipDrives (s : State) : Bool := s.cfg.chip == .reference && s.oeAct && !s.dOe

/-- The byte on the data lines, `sram_d_in`: `M[A]` while the reference SRAM drives them, else a draw (log entry 6). -/
def dataLines (s : State) : Byte :=
  if chipDrives s then memRead s.mem (chipAddr s) else Config.drawnByte s.draws

/-- `data <- Sample()` (10_state.md R34). -/
def sample (s : State) : State :=
  { s with
    data := dataLines s
    draws := if chipDrives s then s.draws else s.draws + 1
    trace := s.trace ++ [.sample (dataLines s)] }

/-! ## Bus modes (41_bus_mode_controller.md R152 to R155) -/

/-- The mode IDLE (10_state.md R23). -/
def modeIdle : BitVec 2 := 0b00
/-- The mode READ. -/
def modeRead : BitVec 2 := 0b01
/-- The mode WRITE. -/
def modeWrite : BitVec 2 := 0b10
/-- The unreachable encoding. -/
def modeIllegal : BitVec 2 := 0b11

/-- The common form of a mode entry: write-enable, output-enable, data direction, mode. -/
def enterMode (m : BitVec 2) (drive : Bool) (s : State) : State :=
  { setDOe drive (setOeAct false (setWeAct false s)) with mode := m }

/-- ENTER_IDLE (41_bus_mode_controller.md R152). -/
def enterIdle (s : State) : State := enterMode modeIdle false s

/-- ENTER_READ (41_bus_mode_controller.md R153). -/
def enterRead (s : State) : State := enterMode modeRead false s

/-- ENTER_WRITE (41_bus_mode_controller.md R154). -/
def enterWrite (s : State) : State := enterMode modeWrite true s

/-! ## Sequencing -/

/-- What follows a piece of pseudocode that completed (00_scope.md R12). -/
def Flow.andThen (x : Flow) (k : State → Flow) : Flow :=
  match x with
  | .go s => k s
  | .stop s => .stop s
  | .fault f => .fault f

/-- The outcome of a step that ran a command as far as it goes. -/
def Flow.outcome : Flow → Host.Outcome State Fault Refusal
  | .go s => .next s
  | .stop s => .next s
  | .fault f => .fault f

/-! ## Host streams (10_state.md R28, R29) -/

/-- A byte accepted from the host. -/
def acceptByte (b : Byte) (rest : List Byte) (s : State) : State :=
  { s with rxReady := false, hostRx := rest, trace := s.trace ++ [.rx b] }

/-- `r <- RxByte()`, `store` writing the register: completes when the host offers a byte, else waits with `rx_ready`
raised. -/
def rxByte (store : Byte → State → State) (s : State) : Flow :=
  match s.hostRx with
  | [] => .stop { s with rxReady := true }
  | b :: rest => .go (store b (acceptByte b rest s))

/-- A byte offered to the host. -/
def offerByte (b : Byte) (s : State) : State := { s with txData := b, txValid := true }

/-- The offered byte accepted by the host. -/
def byteTaken (s : State) : State := { s with txValid := false, trace := s.trace ++ [.tx s.txData] }

/-- `TxByte(b)`: completes when the host sink accepts, else waits with the byte offered. -/
def txByte (b : Byte) (s : State) : Flow :=
  if s.txReady then .go (byteTaken (offerByte b s)) else .stop (offerByte b s)

/-! ## SERIALIZE (40_address_serializer.md R131) -/

/-- One bit of SERIALIZE: the data line, then one clock pulse. -/
def shiftBit (b : Bool) (s : State) : State := setSrClk false (setSrClk true (setSrData b s))

/-- Bits `k - 1` down to 0 of an address. -/
def shiftBits (a : Addr) : Nat → State → State
  | 0, s => s
  | k + 1, s => shiftBits a k (shiftBit (a.getLsbD k) s)

/-- SERIALIZE(a), all 24 bits, most significant first. The waits leave the down-counter at 0 (10_state.md R33). -/
def serialize (a : Addr) (s : State) : State :=
  { shiftBits a Config.serBits { s with serAddr := a } with serBit := 0, serPhase := .idle, dly := 0 }

/-! ## Bus transactions -/

/-- `data <- READ_BYTE(a)` (41_bus_mode_controller.md R156, R160). -/
def readByte (a : Addr) (s : State) : Flow :=
  if s.mode = modeRead then
    .go { setOeAct false (sample (setOeAct true (serialize a s))) with busPhase := .idle }
  else .fault .readOutsideReadMode

/-- WRITE_BYTE(a, v) (41_bus_mode_controller.md R158, R160). -/
def writeByte (a : Addr) (v : Byte) (s : State) : Flow :=
  if s.mode = modeWrite then
    .go { setWeAct false (setWeAct true (setDOut v (serialize a s))) with busPhase := .idle }
  else .fault .writeOutsideWriteMode

/-! ## Response encoder (45_response_encoder.md) -/

/-- The digits of `n`, at most `fuel` of them, most significant first. -/
def decDigits : Nat → Nat → List Byte
  | 0, _ => []
  | fuel + 1, n =>
      if n < 10 then [BitVec.ofNat 8 (0x30 + n)]
      else decDigits fuel (n / 10) ++ [BitVec.ofNat 8 (0x30 + n % 10)]

/-- `DEC(v)` (45_response_encoder.md R272): a 24-bit value has at most 8 digits. -/
def dec (v : Addr) : List Byte := decDigits 8 v.toNat

/-- A piece of a bound message for a value. -/
def partBytes (v : Addr) : Config.TextPart → List Byte
  | .text bs => bs
  | .decimal => dec v

/-- `MSG_START_OOB(v)` or `MSG_END_OOB(v)` of a build (00_scope.md R7). -/
def boundMessage (t : Config.BoundText) (v : Addr) : List Byte :=
  (t.special.lookup v).getD (t.parts.flatMap (partBytes v))

/-- `MESSAGE(cause, val)` (45_response_encoder.md R270). NONE has no message. -/
def message (p : Config.Params) (c : Cause) (v : Addr) : List Byte :=
  match c with
  | .none => []
  | .startOob => boundMessage p.msgStartOob v
  | .endOob => boundMessage p.msgEndOob v
  | .rangeOrder => p.msgRangeOrder
  | .flowDesync => p.msgFlowDesync
  | .unknownCmd => p.msgUnknownCmd

/-- The values a cause can report (45_response_encoder.md R272; 60_exceptions.md R300). A cause without a value has one
message. -/
def reports : Cause → Addr → Prop
  | .none, _ => False
  | .startOob, v => Config.memSize ≤ v.toNat
  | .endOob, v => Config.memSize < v.toNat
  | .rangeOrder, _ => True
  | .flowDesync, _ => True
  | .unknownCmd, _ => True

/-- What 45_response_encoder.md R271 asks of the messages of any build. -/
def messagesOk (p : Config.Params) : Prop :=
  (∀ c v, reports c v → message p c v ≠ [] ∧ ∀ x ∈ message p c v, 0x20 ≤ x.toNat ∧ x.toNat ≤ 0x7E) ∧
  (∀ v, reports .startOob v → textStarting <:+: message p .startOob v ∧ dec v <:+: message p .startOob v) ∧
  (∀ v, reports .endOob v → textEnding <:+: message p .endOob v ∧ dec v <:+: message p .endOob v) ∧
  textUnknownCmd <:+: p.msgUnknownCmd ∧
  (∀ c d v w, c = .rangeOrder ∨ c = .flowDesync → c ≠ d → reports d w → message p c v ≠ message p d w)

/-- `SETTLE_CYCLES / F_CLK` is at least the delay it realises, for both delays (70_reset_and_hazards.md R345). -/
abbrev delaysMet (p : Config.Params) : Prop :=
  Config.tSrNs * p.fClkHz ≤ p.settleSr * 1000000000 ∧ p.tBusNs * p.fClkHz ≤ p.settleBus * 1000000000

/-- A build the spec allows: its messages and its settle counts are as R271 and R345 ask, and its clock runs
(00_scope.md R7). -/
def buildOk (p : Config.Params) : Prop := messagesOk p ∧ delaysMet p ∧ 0 < p.fClkHz

/-- The bytes of a response frame (30_encoding.md R102, 45_response_encoder.md R261 to R263). -/
def frameBytes (f : FrameKind) (s : State) : List Byte :=
  match f with
  | .ok => [0x4F, 0x4B]
  | .co => [0x43, 0x4F]
  | .ng => [0x4E, 0x47] ++ message s.cfg s.cause s.causeVal ++ [0x00]

/-- The rest of a frame, from position `pos` (45_response_encoder.md R260). -/
def emitFrom (f : FrameKind) : Nat → List Byte → State → Flow
  | _, [], s => .go { s with encFrame := none, encPos := 0 }
  | pos, b :: bs, s =>
      (txByte b { s with encFrame := some f, encPos := pos }).andThen (emitFrom f (pos + 1) bs)

/-- Emission of a whole frame: EMIT_SUCCESS, EMIT_CONTINUE, EMIT_ERROR (45_response_encoder.md R261 to R263). -/
def emit (f : FrameKind) (s : State) : Flow := emitFrom f 0 (frameBytes f s) s

/-! ## The abort procedure (60_exceptions.md R307) -/

/-- Entry of `raise Abort(c, v)`: the cause and the value are recorded and the error frame comes next. A cause that
reports no address leaves `cause_val` (60_exceptions.md R300; log entry 12). -/
def beginAbort (c : Cause) (v : Option Addr) (s : State) : State :=
  { s with cause := c, causeVal := v.getD s.causeVal, ctl := .errEmit }

/-- The label after the error frame. -/
def afterErrorFrame (s : State) : State :=
  if s.cfg.abortToIdle then { s with ctl := .errIdle } else { s with cause := .none, ctl := .sync 0 }

/-- ERR_IDLE: the optional return to IDLE, then back to the sync scan. -/
def abortIdle (s : State) : State := { enterIdle s with cause := .none, ctl := .sync 0 }

/-- Return from an abort to MAIN. -/
def abortReturn (s : State) : State :=
  if s.cfg.abortToIdle then abortIdle (afterErrorFrame s) else afterErrorFrame s

/-- `raise Abort(c, v)`: one error frame, the optional ENTER_IDLE, then the sync scan; the command is left. -/
def raiseAbort (c : Cause) (v : Option Addr) (s : State) : Flow :=
  (emit .ng (beginAbort c v s)).andThen fun s => .stop (abortReturn s)

/-! ## Reset (70_reset_and_hazards.md R340, R341, R343) -/

/-- The pin changes of a reset edge, in the order of 10_state.md R40 (log entry 15). -/
def resetEvents (s : State) : List Event :=
  pinEvent s.oeAct (.oeAct false) ++ pinEvent s.weAct (.weAct false) ++ pinEvent s.dOe (.dOe false) ++
    pinEvent (s.dOut != 0) (.dOut 0) ++ pinEvent s.srData (.srData false) ++ pinEvent s.srClk (.srClk false)

/-- A clock edge with `rst = 1`: every field of the CORE takes its reset value; the environment and the build stay. If
it cuts a write pulse, the byte being written is any value. DESIGN CHOICE: at an edge with `rst = 1` reset comes before
the handshakes. No byte is taken, one that the host offers at that edge stays in its channel, and one that the CORE offers
is withdrawn although `tx_ready = 1` (log entry 24). -/
def resetEdge (s : State) : State :=
  { State.reset with
    hostRx := s.hostRx
    txReady := s.txReady
    rst := s.rst
    chain := s.chain
    mem := if s.weAct then memWrite s.mem (chipAddr s) (Config.cutByte s.draws) else s.mem
    cfg := s.cfg
    draws := if s.weAct then s.draws + 1 else s.draws
    trace := s.trace ++ resetEvents s }

end Sys2Proof.Machine
end

