-- ==== Sys2Proof/Machine/Windows.lean ====
section
/-! DEFINITION. The Flow-Control Window Manager (44_flow_control.md). -/

namespace Sys2Proof.Machine

/-- The host's token at a window boundary of a Read: two bytes, both received before they are compared
(44_flow_control.md R242, R243). -/
def readToken (s : State) : Flow :=
  (rxByte (fun b s => { s with tok0 := b }) { s with ctl := .rToken0 }).andThen fun s =>
  (rxByte (fun b s => { s with tok1 := b }) { s with ctl := .rToken1 }).andThen fun s =>
  if tokenMatches s.tok0 s.tok1 then .go { s with ctl := .rTokchk }
  else raiseAbort .flowDesync none { s with ctl := .rTokchk }

/-- One index of READ_WINDOWS (44_flow_control.md R242). -/
def readElement (s : State) : Flow :=
  (if atWindowStart s.idx then readToken s else .go s).andThen fun s =>
  (readByte (byteAddr s) { s with ctl := .rRead }).andThen fun s =>
  (txByte s.data { s with ctl := .rSend }).andThen fun s =>
  .go { s with idx := s.idx + 1 }

/-- The last `n` indices of READ_WINDOWS. -/
def readElements : Nat → State → Flow
  | 0, s => .go s
  | n + 1, s => (readElement s).andThen (readElements n)

/-- READ_WINDOWS (44_flow_control.md R242). -/
def readWindows (s : State) : Flow := readElements (rangeLen s) { s with idx := 0 }

/-- The CORE's grant at a window boundary of a Write (44_flow_control.md R245). -/
def writeGrant (s : State) : Flow := emit .co { s with ctl := .wGrant }

/-- One index of WRITE_WINDOWS (44_flow_control.md R245). -/
def writeElement (s : State) : Flow :=
  (if atWindowStart s.idx then writeGrant s else .go s).andThen fun s =>
  (rxByte (fun b s => { s with data := b }) { s with ctl := .wRecv }).andThen fun s =>
  (writeByte (byteAddr s) s.data { s with ctl := .wWrite }).andThen fun s =>
  .go { s with idx := s.idx + 1 }

/-- The last `n` indices of WRITE_WINDOWS. -/
def writeElements : Nat → State → Flow
  | 0, s => .go s
  | n + 1, s => (writeElement s).andThen (writeElements n)

/-- WRITE_WINDOWS (44_flow_control.md R245). -/
def writeWindows (s : State) : Flow := writeElements (rangeLen s) { s with idx := 0 }

end Sys2Proof.Machine
end

