-- ==== Sys2Proof/Machine/Commands.lean ====
section
/-! DEFINITION. The commands (43_commands.md). Each meaning starts where the frame has been received; a step answers
the state at the command's end, or where the command waits for the host (log entries 1 and 13). -/

namespace Sys2Proof.Machine

/-- DONE_OK and DONE_IDLE: the closing `"OK"`, then ENTER_IDLE and back to MAIN (43_commands.md R216, R220). -/
def finishTransfer (s : State) : Flow :=
  (emit .ok { s with ctl := .doneOk }).andThen fun s =>
  .go { enterIdle { s with ctl := .doneIdle } with ctl := .sync 0 }

/-- The common part of `R` and `W` (43_commands.md R216, R220): the operands of the frame are in their registers;
VALIDATE, then the transfer or the abort. -/
def rangeCommand (op : Byte) (a b : Addr) (transfer : State → Flow) (s : State) : Flow :=
  let s := { s with op := op, startAddr := a, endAddr := b, ctl := .check }
  match validate a b with
  | some (c, v) => raiseAbort c v s
  | none => (transfer s).andThen finishTransfer

/-- The transfer of a Read: ENTER_READ, the announcing `"CO"`, READ_WINDOWS (43_commands.md R216). -/
def readTransfer (s : State) : Flow :=
  (emit .co { enterRead { s with ctl := .rEnter } with ctl := .rAnnounce }).andThen readWindows

/-- The transfer of a Write: ENTER_WRITE, WRITE_WINDOWS (43_commands.md R220). -/
def writeTransfer (s : State) : Flow := writeWindows (enterWrite { s with ctl := .wEnter })

/-- CMD_STATUS (43_commands.md R212). -/
def execStatus (s : State) : Host.Outcome State Fault Refusal :=
  ((emit .ok { s with op := opStatus, ctl := .sOk }).andThen fun s => .go { s with ctl := .sync 0 }).outcome

/-- CMD_READ (43_commands.md R216). -/
def execRead (a b : Addr) (s : State) : Host.Outcome State Fault Refusal :=
  (rangeCommand opRead a b readTransfer s).outcome

/-- CMD_WRITE (43_commands.md R220). -/
def execWrite (a b : Addr) (s : State) : Host.Outcome State Fault Refusal :=
  (rangeCommand opWrite a b writeTransfer s).outcome

/-- CMD_UNKNOWN (43_commands.md R224). -/
def execUnknown (op : Byte) (s : State) : Host.Outcome State Fault Refusal :=
  (raiseAbort .unknownCmd none { s with op := op }).outcome

end Sys2Proof.Machine
end

