-- ==== Sys2Proof/Machine/Clock.lean ====
section
/-! DEFINITION. The clocked controller: one rising edge of `clk` with `rst = 0` (10_state.md R22, R28, R29, R33, R38,
R39). It does one primitive of the pseudocode, or counts one cycle of a settle delay, or waits for the host. -/

namespace Sys2Proof.Machine

/-! ## One edge of a host-stream primitive -/

/-- An edge of `RxByte()` (10_state.md R28): raise `rx_ready`; then accept the byte the host offers, or wait. -/
def tickRx (store : Byte → State → State) (s : State) : State :=
  if s.rxReady then
    match s.hostRx with
    | [] => s
    | b :: rest => store b (acceptByte b rest s)
  else { s with rxReady := true }

/-- An edge of `TxByte(b)` (10_state.md R29): offer the byte; then hold it until the host accepts. -/
def tickTx (b : Byte) (next : State → State) (s : State) : State :=
  if s.txValid then
    if s.txReady then next (byteTaken s) else s
  else offerByte b s

/-- The first edge of a frame's emission: its first byte is offered (10_state.md R39). -/
def startFrame (f : FrameKind) (s : State) : State :=
  offerByte ((frameBytes f s).headD 0) { s with encFrame := some f, encPos := 0 }

/-- An edge of a frame's emission: the offered byte is held until the host accepts it, then the next byte is offered at
once (`tx_valid` stays 1, 10_state.md R29), or the frame is over. -/
def tickEmit (f : FrameKind) (next : State → State) (s : State) : State :=
  if s.txValid then
    if s.txReady then
      match (frameBytes f s)[s.encPos + 1]? with
      | some b => offerByte b { byteTaken s with encFrame := some f, encPos := s.encPos + 1 }
      | none => next { byteTaken s with encFrame := none, encPos := 0 }
    else s
  else startFrame f s

/-! ## One edge of SERIALIZE (40_address_serializer.md R131) -/

/-- An edge of a settle delay: count down, then go on (10_state.md R33). -/
def tickSettle (next : State → State) (s : State) : State :=
  if s.dly = 0 then next s else { s with dly := s.dly - 1 }

/-- The bit after the current one; SERIALIZE is over after bit 0. -/
def nextBit (s : State) : State :=
  if s.serBit = 0 then { s with serPhase := .idle }
  else { s with serBit := s.serBit - 1, serPhase := .data }

/-- An edge of SERIALIZE. -/
def tickSerialize (s : State) : State :=
  match s.serPhase with
  | .idle => s
  | .data => { setSrData (s.serAddr.getLsbD s.serBit.val) s with dly := s.cfg.settleSr, serPhase := .settleData }
  | .settleData => tickSettle (fun s => { s with serPhase := .rise }) s
  | .rise => { setSrClk true s with dly := s.cfg.settleSr, serPhase := .settleRise }
  | .settleRise => tickSettle (fun s => { s with serPhase := .fall }) s
  | .fall => { setSrClk false s with dly := s.cfg.settleSr, serPhase := .settleFall }
  | .settleFall => tickSettle nextBit s

/-- The start of a transaction: SERIALIZE is entered with its address. -/
def startSerialize (s : State) : State :=
  { s with serAddr := byteAddr s, serBit := 23, serPhase := .data, busPhase := .serialize }

/-- An edge of a transaction's SERIALIZE; when it is over the bus settle delay follows
(41_bus_mode_controller.md R156, R158). -/
def tickAddress (s : State) : State :=
  let t := tickSerialize s
  if t.serPhase = .idle then { t with busPhase := .settleAddr, dly := t.cfg.settleBus } else t

/-! ## Loop heads (44_flow_control.md R242, R245) -/

/-- The head of READ_WINDOWS: the next index, or the closing `"OK"`, whose first byte is offered at the same edge where
the last data byte was taken (10_state.md R29). -/
def readHead (s : State) : State :=
  if s.idx.toNat < rangeLen s then
    if atWindowStart s.idx then { s with ctl := .rToken0 } else { s with ctl := .rRead }
  else { s with ctl := .doneOk }

/-- The head of WRITE_WINDOWS. -/
def writeHead (s : State) : State :=
  if s.idx.toNat < rangeLen s then
    if atWindowStart s.idx then { s with ctl := .wGrant } else { s with ctl := .wRecv }
  else { s with ctl := .doneOk }

/-- After a data byte of a Read: the next index; the closing frame starts with no gap. -/
def readNext (s : State) : State :=
  let t := readHead { s with idx := s.idx + 1 }
  if t.ctl = .doneOk then startFrame .ok t else t

/-! ## One edge of a bus transaction -/

/-- An edge of READ_BYTE at R_READ (41_bus_mode_controller.md R156, R160). -/
def tickRead (s : State) : Flow :=
  match s.busPhase with
  | .idle => if s.mode = modeRead then .go (startSerialize s) else .fault .readOutsideReadMode
  | .serialize => .go (tickAddress s)
  | .settleAddr => .go (tickSettle (fun s => { s with busPhase := .assertEnable }) s)
  | .assertEnable => .go { setOeAct true s with busPhase := .settleEnable, dly := s.cfg.settleBus }
  | .settleEnable => .go (tickSettle (fun s => { s with busPhase := .sample }) s)
  | .sample => .go { sample s with busPhase := .deassert }
  | .deassert => .go { setOeAct false s with busPhase := .idle, ctl := .rSend }
  | .drive => .fault .badControl
  | .settleHold => .fault .badControl

/-- An edge of WRITE_BYTE at W_WRITE (41_bus_mode_controller.md R158, R160). -/
def tickWrite (s : State) : Flow :=
  match s.busPhase with
  | .idle => if s.mode = modeWrite then .go (startSerialize s) else .fault .writeOutsideWriteMode
  | .serialize => .go (tickAddress s)
  | .settleAddr => .go (tickSettle (fun s => { s with busPhase := .drive }) s)
  | .drive => .go { setDOut s.data s with busPhase := .assertEnable }
  | .assertEnable => .go { setWeAct true s with busPhase := .settleEnable, dly := s.cfg.settleBus }
  | .settleEnable => .go (tickSettle (fun s => { s with busPhase := .deassert }) s)
  | .deassert => .go { setWeAct false s with busPhase := .settleHold, dly := s.cfg.settleBus }
  | .settleHold =>
      .go (tickSettle (fun s => writeHead { s with busPhase := .idle, idx := s.idx + 1 }) s)
  | .sample => .fault .badControl

/-! ## One edge of the controller -/

/-- Dispatch on the instruction byte (42_command_framer.md R180, R184). -/
def dispatchOp (s : State) : State :=
  if s.op = opStatus then { s with ctl := .sOk }
  else if s.op = opRead then { s with ctl := .addr 0 }
  else if s.op = opWrite then { s with ctl := .addr 0 }
  else beginAbort .unknownCmd none s

/-- CHECK: VALIDATE, then the command's entry or the abort (42_command_framer.md R188). -/
def tickCheck (s : State) : Flow :=
  match validate s.startAddr s.endAddr with
  | some (c, v) => .go (beginAbort c v s)
  | none =>
      if s.op = opRead then .go { s with ctl := .rEnter }
      else if s.op = opWrite then .go { s with ctl := .wEnter }
      else .fault .badControl

/-- R_TOKCHK: the token is compared (44_flow_control.md R242, R243). -/
def tickToken (s : State) : State :=
  if tokenMatches s.tok0 s.tok1 then { s with ctl := .rRead } else beginAbort .flowDesync none s

/-- One edge of `clk` with `rst = 0`, by control label (10_state.md R22). -/
def tick (s : State) : Flow :=
  match s.ctl with
  | .sync k => .go (tickRx (fun b s => { s with ctl := syncNext s.cfg.syncRetest k b }) s)
  | .instr => .go (tickRx (fun b s => dispatchOp { s with op := b }) s)
  | .addr k => .go (tickRx (fun b s => { storeAddrByte k b s with ctl := addrNext k }) s)
  | .check => tickCheck s
  | .sOk => .go (tickEmit .ok (fun s => { s with ctl := .sync 0 }) s)
  | .rEnter => .go { enterRead s with ctl := .rAnnounce }
  | .rAnnounce => .go (tickEmit .co (fun s => readHead { s with idx := 0 }) s)
  | .rToken0 => .go (tickRx (fun b s => { s with tok0 := b, ctl := .rToken1 }) s)
  | .rToken1 => .go (tickRx (fun b s => { s with tok1 := b, ctl := .rTokchk }) s)
  | .rTokchk => .go (tickToken s)
  | .rRead => tickRead s
  | .rSend => .go (tickTx s.data readNext s)
  | .wEnter => .go (writeHead { enterWrite s with idx := 0 })
  | .wGrant => .go (tickEmit .co (fun s => { s with ctl := .wRecv }) s)
  | .wRecv => .go (tickRx (fun b s => { s with data := b, ctl := .wWrite }) s)
  | .wWrite => tickWrite s
  | .doneOk => .go (tickEmit .ok (fun s => { s with ctl := .doneIdle }) s)
  | .doneIdle => .go { enterIdle s with ctl := .sync 0 }
  | .errEmit => .go (tickEmit .ng afterErrorFrame s)
  | .errIdle => .go (abortIdle s)

/-- `n` clock edges, as far as no fault stops them. -/
def ticks : Nat → State → Flow
  | 0, s => .go s
  | n + 1, s => (tick s).andThen (ticks n)

/-! ## The fetch of a whole frame -/

/-- The bytes of a frame accepted from the host (42_command_framer.md R182, R184, R186): as many RX events. -/
def acceptFrame (n : Nat) (s : State) : State :=
  { s with rxReady := false, hostRx := s.hostRx.drop n, trace := s.trace ++ (s.hostRx.take n).map Event.rx }

/-- At SYNC0 with a whole frame waiting in the host's channel: its command, and the state after its bytes. -/
def fetch (s : State) : Option (Instr × State) :=
  if s.ctl = .sync 0 then
    match decode s.hostRx with
    | .ok (i, _) => some (i, acceptFrame (frameLength i) s)
    | .error _ => none
  else none

end Sys2Proof.Machine
end

