-- ==== Sys2Proof/Machine/Step.lean ====
section
/-! DEFINITION. One step of the machine (log entry 1). -/

namespace Sys2Proof.Machine

/-- A reset edge while `rst = 1` (70_reset_and_hazards.md R340). The unreachable mode faults (10_state.md R23). At SYNC0
with a whole frame in the host's channel, the frame is received and its command run; otherwise one clock edge. -/
def step (s : State) : Host.Outcome State Fault Refusal :=
  if s.rst then .next (resetEdge s)
  else if s.mode = modeIllegal then .fault .illegalMode
  else
    match fetch s with
    | some (i, t) => exec i t
    | none => (tick s).outcome

/-- The table word's frame placed at the head of the host's channel, with the CORE at the start of the sync scan and
reset released, so that the next step receives and runs it (log entry 2). -/
def State.withFetchWord (s : State) (nbits w : Nat) : State :=
  { s with ctl := .sync 0, rst := false, hostRx := tableFrame nbits w ++ s.hostRx }

end Sys2Proof.Machine
end

