-- ==== Sys2Proof/Safety.lean ====
section
/-! DEFINITION. The words the claims use: what a trace shows, what a command's streams are, the invariant of the
controller, and the states an environment can bring the machine to. -/

namespace Sys2Proof.Safety

open Sys2Proof Sys2Proof.Machine

/-! ## What a trace shows (00_scope.md R13) -/

/-- The bytes the CORE sent. -/
def sentBytes (t : List Event) : List Byte :=
  t.filterMap fun e => match e with | .tx b => some b | _ => none

/-- The bytes the CORE received. -/
def receivedBytes (t : List Event) : List Byte :=
  t.filterMap fun e => match e with | .rx b => some b | _ => none

/-- The bytes sampled on the data lines. -/
def sampledBytes (t : List Event) : List Byte :=
  t.filterMap fun e => match e with | .sample b => some b | _ => none

/-- The events of the link, in order. -/
def linkEvents (t : List Event) : List Event :=
  t.filter fun e => match e with | .rx _ => true | .tx _ => true | _ => false

/-- The levels `sr_clk` changes to, in order. -/
def clockLevels (t : List Event) : List Bool :=
  t.filterMap fun e => match e with | .pin (.srClk v) => some v | _ => none

/-- The level of `sr_data` at each rising edge of `sr_clk`, `d` being its level before the trace. -/
def clockedBits : Bool → List Event → List Bool
  | _, [] => []
  | _, .pin (.srData v) :: t => clockedBits v t
  | d, .pin (.srClk true) :: t => d :: clockedBits d t
  | d, _ :: t => clockedBits d t

/-! ## The trace of a transaction -/

/-- The events of bits `k - 1` down to 0 in SERIALIZE(a), `sr_data` being `d` before (40_address_serializer.md R131). -/
def serializeEventsFrom (a : Addr) : Nat → Bool → List Event
  | 0, _ => []
  | k + 1, d =>
      pinEvent (d != a.getLsbD k) (.srData (a.getLsbD k)) ++ [.pin (.srClk true), .pin (.srClk false)] ++
        serializeEventsFrom a k (a.getLsbD k)

/-- The events of SERIALIZE(a). -/
def serializeEvents (d : Bool) (a : Addr) : List Event := serializeEventsFrom a 24 d

/-- The events of one READ_BYTE (41_bus_mode_controller.md R157). -/
def readByteEvents (d : Bool) (a : Addr) (v : Byte) : List Event :=
  serializeEvents d a ++ [.pin (.oeAct true), .sample v, .pin (.oeAct false)]

/-- The events of one WRITE_BYTE (41_bus_mode_controller.md R159), `o` being the data lines' output before. -/
def writeByteEvents (d : Bool) (a : Addr) (o v : Byte) : List Event :=
  serializeEvents d a ++ pinEvent (o != v) (.dOut v) ++ [.pin (.weAct true), .pin (.weAct false)]

/-! ## The streams of a range command (43_commands.md R217, R221) -/

/-- `"OK"`. -/
def okBytes : List Byte := [0x4F, 0x4B]

/-- `"CO"`, the Continue frame and the flow-control token. -/
def coBytes : List Byte := [0x43, 0x4F]

/-- An Error frame around a message (30_encoding.md R102). -/
def errorBytes (msg : List Byte) : List Byte := [0x4E, 0x47] ++ msg ++ [0x00]

/-- The number of windows of a range of `n` bytes (44_flow_control.md R241). -/
def windowCount (n : Nat) : Nat := (n + 31) / 32

/-- `k` tokens, one after the other. -/
def tokens : Nat → List Byte
  | 0 => []
  | k + 1 => coBytes ++ tokens k

/-- The link events of the first `n` indices of a Read whose data are `d 0, d 1, ...`: a token before each window, then
its bytes. -/
def readPayloadLink (d : Nat → Byte) (n : Nat) : List Event :=
  (List.range n).flatMap fun i => (if i % 32 = 0 then coBytes.map Event.rx else []) ++ [Event.tx (d i)]

/-- The link events of the first `n` indices of a Write whose payload is `p 0, p 1, ...`: a grant before each window,
then its bytes. -/
def writePayloadLink (p : Nat → Byte) (n : Nat) : List Event :=
  (List.range n).flatMap fun i => (if i % 32 = 0 then coBytes.map Event.tx else []) ++ [Event.rx (p i)]

/-- `sr_data` before the transaction of index `i`: its level before the transfer, then the last bit of the address of
index `i - 1`. -/
def dataLineBefore (d : Bool) (a : Addr) : Nat → Bool
  | 0 => d
  | i + 1 => (a + BitVec.ofNat 24 i).getLsbD 0

/-- The whole trace of the first `n` indices of a Read (44_flow_control.md R242). -/
def readPayloadTrace (d : Bool) (a : Addr) (v : Nat → Byte) (n : Nat) : List Event :=
  (List.range n).flatMap fun i =>
    (if i % 32 = 0 then coBytes.map Event.rx else []) ++
      readByteEvents (dataLineBefore d a i) (a + BitVec.ofNat 24 i) (v i) ++ [Event.tx (v i)]

/-- The data lines' output before the transaction of index `i` of a Write. -/
def outputBefore (o : Byte) (p : Nat → Byte) : Nat → Byte
  | 0 => o
  | i + 1 => p i

/-- The whole trace of the first `n` indices of a Write (44_flow_control.md R245). -/
def writePayloadTrace (d : Bool) (o : Byte) (a : Addr) (p : Nat → Byte) (n : Nat) : List Event :=
  (List.range n).flatMap fun i =>
    (if i % 32 = 0 then coBytes.map Event.tx else []) ++ [Event.rx (p i)] ++
      writeByteEvents (dataLineBefore d a i) (a + BitVec.ofNat 24 i) (outputBefore o p i) (p i)

/-! ## The sync scan (42_command_framer.md R182) -/

/-- The label after bytes met from a label of the sync scan; a label outside the scan stays. -/
def scanned (retest : Bool) : Ctl → List Byte → Ctl
  | c, [] => c
  | .sync k, b :: bs => scanned retest (syncNext retest k b) bs
  | c, _ :: _ => c

/-! ## The states a transfer passes through

Each says every field that differs from the state before; `s` is the state the command starts in. -/

/-- A Read after its `"CO"`: validated, in READ, the first index next (43_commands.md R216). -/
def readStarted (a b : Addr) (s : State) : State :=
  { s with
    op := 0x52
    startAddr := a
    endAddr := b
    mode := modeRead
    idx := 0
    txData := 0x4F
    txValid := false
    encFrame := none
    encPos := 0
    trace := s.trace ++ coBytes.map Event.tx }

/-- The byte sampled for index `i` of a Read that starts in `s`: the SRAM's byte at `a + i` with the reference SRAM, else
the next draw (20_memory.md R70, 93_implementation_defined.md I5). -/
def sampledAt (a : Addr) (s : State) (i : Nat) : Byte :=
  if s.cfg.chip = .reference then memRead s.mem (a.toNat + i) else Config.drawnByte (s.draws + i)

/-- A Read after its first `k` indices (44_flow_control.md R242). What the serializer's, the bus controller's and the
encoder's own registers hold after their operations is the model's choice (log entry 22). -/
def readProgress (a : Addr) : Nat → State → State
  | 0, s => s
  | k + 1, s =>
    { s with
      idx := BitVec.ofNat 18 (k + 1)
      tok0 := 0x43
      tok1 := 0x4F
      data := sampledAt a s k
      rxReady := false
      txData := sampledAt a s k
      srData := (a + BitVec.ofNat 24 k).getLsbD 0
      serAddr := a + BitVec.ofNat 24 k
      serBit := 0
      serPhase := .idle
      busPhase := .idle
      dly := 0
      chain := a + BitVec.ofNat 24 k
      draws := if s.cfg.chip = .reference then s.draws else s.draws + (k + 1)
      trace := s.trace ++ readPayloadTrace s.srData a (sampledAt a s) (k + 1) }

/-- A Write validated and in WRITE, the first index next (43_commands.md R220). -/
def writeStarted (a b : Addr) (s : State) : State :=
  { s with
    op := 0x57
    startAddr := a
    endAddr := b
    mode := modeWrite
    idx := 0
    dOe := true
    trace := s.trace ++ [.pin (.dOe true)] }

/-- The SRAM with bytes written to ascending addresses from `a`. -/
def storeBytes (m : Memory) (a : Nat) : List Byte → Memory
  | [] => m
  | b :: bs => storeBytes (memWrite m a b) (a + 1) bs

/-- A Write after its first `k` indices, whose bytes are `p 0, p 1, ...` (44_flow_control.md R245). What the serializer's,
the bus controller's and the encoder's own registers hold after their operations is the model's choice (log entry 22). -/
def writeProgress (a : Addr) (p : Nat → Byte) : Nat → State → State
  | 0, s => s
  | k + 1, s =>
    { s with
      idx := BitVec.ofNat 18 (k + 1)
      data := p k
      rxReady := false
      txData := 0x4F
      txValid := false
      encFrame := none
      encPos := 0
      dOut := p k
      srData := (a + BitVec.ofNat 24 k).getLsbD 0
      serAddr := a + BitVec.ofNat 24 k
      serBit := 0
      serPhase := .idle
      busPhase := .idle
      dly := 0
      chain := a + BitVec.ofNat 24 k
      mem := storeBytes s.mem a.toNat ((List.range (k + 1)).map p)
      trace := s.trace ++ writePayloadTrace s.srData s.dOut a p (k + 1) }

/-- A transfer after its closing `"OK"` and ENTER_IDLE (43_commands.md R216, R220); the encoder's registers as in log
entry 22. -/
def transferDone (s : State) : State :=
  { s with
    ctl := .sync 0
    mode := modeIdle
    dOe := false
    txData := 0x4B
    txValid := false
    encFrame := none
    encPos := 0
    trace := s.trace ++ okBytes.map Event.tx ++ pinEvent s.dOe (.dOe false) }

/-- An abort with an error message, over: the mode is IDLE or stays, by `ABORT_TO_IDLE` (60_exceptions.md R307); the
encoder's registers as in log entry 22. -/
def afterAbort (msg : List Byte) (s : State) : State :=
  { s with
    ctl := .sync 0
    mode := if s.cfg.abortToIdle then modeIdle else s.mode
    cause := .none
    txData := 0
    txValid := false
    encFrame := none
    encPos := 0
    trace := s.trace ++ (errorBytes msg).map Event.tx }

/-- A frame whose first byte is offered and not yet accepted (10_state.md R29). -/
def offering (c : Ctl) (f : FrameKind) (b : Byte) (s : State) : State :=
  { s with ctl := c, encFrame := some f, encPos := 0, txData := b, txValid := true }

/-! ## Bus conditions -/

/-- The pins as they are between commands (41_bus_mode_controller.md R165, 40_address_serializer.md R132): enables
inactive, data lines inputs, shift clock low. -/
abbrev pinsQuiet (s : State) : Prop :=
  s.oeAct = false ∧ s.weAct = false ∧ s.dOe = false ∧ s.srClk = false

/-- A range that passes validation (42_command_framer.md R188). -/
abbrev validRange (a b : Addr) : Prop := a.toNat < b.toNat ∧ b.toNat ≤ Config.memSize

/-! ## Control labels by what they do -/

/-- The CORE executes `RxByte()` at this label (10_state.md R28). -/
def receives : Ctl → Bool
  | .sync _ | .instr | .addr _ | .rToken0 | .rToken1 | .wRecv => true
  | _ => false

/-- The CORE executes `TxByte` at this label (10_state.md R29). -/
def sends : Ctl → Bool
  | .sOk | .rAnnounce | .rSend | .wGrant | .doneOk | .errEmit => true
  | _ => false

/-- The frame emitted at a label (45_response_encoder.md R261 to R263). -/
def frameAt : Ctl → Option FrameKind
  | .sOk | .doneOk => some .ok
  | .rAnnounce | .wGrant => some .co
  | .errEmit => some .ng
  | _ => none

/-- The labels of a Read between ENTER_READ and the closing `"OK"` (43_commands.md R216). -/
def inRead : Ctl → Bool
  | .rAnnounce | .rToken0 | .rToken1 | .rTokchk | .rRead | .rSend => true
  | _ => false

/-- The labels of a Write between ENTER_WRITE and the closing `"OK"` (43_commands.md R220). -/
def inWrite : Ctl → Bool
  | .wGrant | .wRecv | .wWrite => true
  | _ => false

/-- The labels where index `idx` of a range is being transferred (44_flow_control.md R242, R245). -/
def transfers : Ctl → Bool
  | .rToken0 | .rToken1 | .rTokchk | .rRead | .rSend | .wGrant | .wRecv | .wWrite => true
  | _ => false

/-- The labels of a window's exchange (44_flow_control.md R241). -/
def atWindow : Ctl → Bool
  | .rToken0 | .rToken1 | .rTokchk | .wGrant => true
  | _ => false

/-- The labels that follow a successful validation. -/
def validated : Ctl → Bool
  | .rEnter | .wEnter | .doneOk | .doneIdle => true
  | c => inRead c || inWrite c

/-- The labels of an abort (60_exceptions.md R307). -/
def aborting : Ctl → Bool
  | .errEmit | .errIdle => true
  | _ => false

/-- The closing labels. -/
def closing : Ctl → Bool
  | .doneOk | .doneIdle => true
  | _ => false

/-- The labels where the operands are received or checked. -/
def operands : Ctl → Bool
  | .addr _ | .check => true
  | _ => false

/-! ## The invariant -/

/-- What holds of the controller between any two steps. -/
structure Inv (s : State) : Prop where
  /-- The mode is a legal one (10_state.md R23). -/
  legalMode : s.mode ≠ modeIllegal
  /-- The CORE drives the data lines exactly in WRITE (41_bus_mode_controller.md R164). -/
  direction : s.dOe = true ↔ s.mode = modeWrite
  /-- Output-enable is asserted only inside READ_BYTE (41_bus_mode_controller.md R162, R165, R167). -/
  outputEnable : s.oeAct = true →
    s.ctl = .rRead ∧ (s.busPhase = .settleEnable ∨ s.busPhase = .sample ∨ s.busPhase = .deassert)
  /-- Write-enable is asserted only inside WRITE_BYTE (41_bus_mode_controller.md R163, R165, R167). -/
  writeEnable : s.weAct = true → s.ctl = .wWrite ∧ (s.busPhase = .settleEnable ∨ s.busPhase = .deassert)
  /-- A Read's labels have mode READ (43_commands.md R216). -/
  readMode : inRead s.ctl = true → s.mode = modeRead
  /-- A Write's labels have mode WRITE (43_commands.md R220). -/
  writeMode : inWrite s.ctl = true → s.mode = modeWrite
  /-- The closing labels belong to a Read or a Write. -/
  closingMode : closing s.ctl = true → s.mode = modeRead ∨ s.mode = modeWrite
  /-- No abort happens in WRITE (60_exceptions.md R305). -/
  abortMode : aborting s.ctl = true → s.mode = modeIdle ∨ s.mode = modeRead
  /-- Elsewhere the mode is IDLE, or READ left by an abort when `ABORT_TO_IDLE` is false
  (41_bus_mode_controller.md R164). -/
  otherMode : inRead s.ctl = false → inWrite s.ctl = false → closing s.ctl = false → aborting s.ctl = false →
    s.mode = modeIdle ∨ (s.mode = modeRead ∧ s.cfg.abortToIdle = false)
  /-- A transaction runs only at its label (10_state.md R38). -/
  transaction : s.busPhase ≠ .idle → s.ctl = .rRead ∨ s.ctl = .wWrite
  /-- READ_BYTE has no write phase (41_bus_mode_controller.md R156). -/
  readPhases : s.ctl = .rRead → s.busPhase ≠ .drive ∧ s.busPhase ≠ .settleHold
  /-- WRITE_BYTE has no sample phase (41_bus_mode_controller.md R158). -/
  writePhases : s.ctl = .wWrite → s.busPhase ≠ .sample
  /-- SERIALIZE runs exactly in the first phase of a transaction (40_address_serializer.md R135). -/
  serializer : s.serPhase ≠ .idle ↔ s.busPhase = .serialize
  /-- The shift clock is high only inside a clock pulse (40_address_serializer.md R132). -/
  shiftClock : s.srClk = true → s.serPhase = .settleRise ∨ s.serPhase = .fall
  /-- `rx_ready` is 1 only while the CORE executes `RxByte()` (10_state.md R28). -/
  receiver : s.rxReady = true → receives s.ctl = true
  /-- `tx_valid` is 1 only while the CORE executes `TxByte` (10_state.md R29). -/
  sender : s.txValid = true → sends s.ctl = true
  /-- A frame in progress is the label's frame (10_state.md R39). -/
  encoder : s.encFrame = none ∨ s.encFrame = frameAt s.ctl
  /-- A cause is recorded exactly during an abort (60_exceptions.md R300, R307). -/
  causeSet : s.cause ≠ .none ↔ aborting s.ctl = true
  /-- START_OOB reports a value it can have (60_exceptions.md R302). -/
  startValue : s.cause = .startOob → Config.memSize ≤ s.causeVal.toNat
  /-- END_OOB reports a value it can have (60_exceptions.md R303). -/
  endValue : s.cause = .endOob → Config.memSize < s.causeVal.toNat
  /-- Only `R` and `W` have operands (42_command_framer.md R185). -/
  opcode : operands s.ctl = true → s.op = opRead ∨ s.op = opWrite
  /-- After validation the range is valid (42_command_framer.md R188). -/
  range : validated s.ctl = true → validRange s.startAddr s.endAddr
  /-- The index is below the length while a byte is transferred (44_flow_control.md R247). -/
  index : transfers s.ctl = true → s.idx.toNat < rangeLen s
  /-- A token or a grant is exchanged only at a window's first index (44_flow_control.md R241). -/
  window : atWindow s.ctl = true → s.idx.toNat % 32 = 0
  /-- The memory is in canonical form. -/
  memory : memWf s.mem

/-! ## Runs -/

/-- `k` steps of the machine, as far as nothing stops it. -/
def run (k : Nat) (s : State) : Host.Outcome State Fault Refusal := Host.Core.run Sys2Proof.core k s

/-- Reset is released and the mode is a legal one, so that a step is the CORE's own (70_reset_and_hazards.md R340,
10_state.md R23). -/
abbrev running (s : State) : Prop := s.rst = false ∧ s.mode ≠ modeIllegal

/-! ## Reachable states -/

/-- The states a run of one of the builds can be in: reset with the build and any environment, then steps, between which
the host sends bytes, changes `tx_ready`, and moves the reset pin. -/
inductive ReachableWith (builds : Config.Params → Prop) : State → Prop where
  | boot (cfg : Config.Params) (mem : Memory) (chain : BitVec 24) (q : List Byte) (ready : Bool) (draws : Nat) :
      builds cfg → memWf mem →
      ReachableWith builds { State.reset with
        cfg := cfg, mem := mem, chain := chain, hostRx := q, txReady := ready, draws := draws }
  | environment {s : State} (q : List Byte) (ready rst : Bool) :
      ReachableWith builds s →
      ReachableWith builds { s with hostRx := s.hostRx ++ q, txReady := ready, rst := rst }
  | step {s t : State} : ReachableWith builds s → Machine.step s = .next t → ReachableWith builds t

/-- The states a run of a build the spec allows can be in (00_scope.md R7, 45_response_encoder.md R271,
70_reset_and_hazards.md R345). -/
abbrev Reachable : State → Prop := ReachableWith buildOk

end Sys2Proof.Safety
end

