-- ==== Sys2Proof/Certificates/Slice0/Obligations.lean ====
section
/-! DEFINITION. The statements about the model. Where a whole next state is written out, every field not named is
unchanged: that is the frame. Between commands the pins are quiet (`pinsQuiet`); `InvariantGivesQuietPins` says that the
invariant gives it at SYNC0. -/

open Sys2Proof Sys2Proof.Machine Sys2Proof.Safety

/-! ## Reset -/

/-- A reset edge gives every field of the CORE its reset value (70_reset_and_hazards.md R340, 10_state.md R40), and the scan
starts. The model's choices: the host's channel, `tx_ready` and `rst` stay (log entry 3), the build stays (log entry 9), and
a byte that the host offers at that edge is not taken, nor one of the CORE's accepted (log entry 24). -/
def Obligations.ResetEdgeValues : Prop :=
  ∀ s : State, s.rst = true → ∃ t, step s = .next t ∧
    t.ctl = .sync 0 ∧ t.mode = 0b00 ∧ t.oeAct = false ∧ t.weAct = false ∧ t.dOe = false ∧ t.dOut = 0x00 ∧
    t.srData = false ∧ t.srClk = false ∧ t.rxReady = false ∧ t.txValid = false ∧ t.txData = 0x00 ∧
    t.op = 0 ∧ t.startAddr = 0 ∧ t.endAddr = 0 ∧ t.idx = 0 ∧ t.tok0 = 0 ∧ t.tok1 = 0 ∧ t.data = 0 ∧
    t.causeVal = 0 ∧ t.cause = .none ∧ t.serAddr = 0 ∧ t.serBit = 0 ∧ t.serPhase = .idle ∧ t.busPhase = .idle ∧
    t.dly = 0 ∧ t.encFrame = none ∧ t.encPos = 0 ∧
    t.chain = s.chain ∧ t.hostRx = s.hostRx ∧ t.txReady = s.txReady ∧ t.rst = s.rst ∧ t.cfg = s.cfg ∧
    (s.weAct = false → t.mem = s.mem)

/-- A reset sends and receives nothing and withdraws an offered byte; only a byte whose write pulse it cuts may change
(70_reset_and_hazards.md R341). The model's choices: the cut byte's free value (log entry 7), and that no handshake is
made at the reset edge, also with `tx_valid = tx_ready = 1` or with `rx_ready = 1` and a byte offered (log entry 24). -/
def Obligations.ResetDiscardsCommand : Prop :=
  ∀ s : State, s.rst = true → ∃ t, step s = .next t ∧
    sentBytes t.trace = sentBytes s.trace ∧ receivedBytes t.trace = receivedBytes s.trace ∧
    t.txValid = false ∧ t.ctl = .sync 0 ∧ t.hostRx = s.hostRx ∧
    (s.weAct = false → t.mem = s.mem) ∧
    (s.weAct = true → memRead t.mem (chipAddr s) = Config.cutByte s.draws) ∧
    (∀ x, x ≠ chipAddr s → memRead t.mem x = memRead s.mem x)

/-! ## Framing -/

/-- A whole frame in the host's channel at SYNC0 is received and its command run in one step (log entry 1, the model's
grain of a step). -/
def Obligations.StepRunsDecodedFrame : Prop :=
  ∀ (s : State) (i : Instr) (rest : List Byte), running s → s.ctl = .sync 0 → decode s.hostRx = .ok (i, rest) →
    step s = exec i { s with
      rxReady := false
      hostRx := rest
      trace := s.trace ++ (s.hostRx.take (frameLength i)).map Event.rx }

/-- Frames written out from 30_encoding.md R91 and R95 decode to their commands. -/
def Obligations.KnownFramesDecode : Prop :=
  decode [0x53, 0x52, 0x41, 0x4D, 0x53] = .ok (.status, []) ∧
  decode [0x53, 0x52, 0x41, 0x4D, 0x52, 0x00, 0x01, 0x00, 0x01, 0xFF, 0xFE] = .ok (.read 0x000100 0x01FFFE, []) ∧
  decode [0x53, 0x52, 0x41, 0x4D, 0x57, 0x01, 0xFF, 0xFD, 0x02, 0x00, 0x00, 0x43]
    = .ok (.write 0x01FFFD 0x020000, [0x43]) ∧
  decode [0x53, 0x52, 0x41, 0x4D, 0x58] = .ok (.unknown 0x58, []) ∧
  decode [0x53, 0x52, 0x41, 0x4D, 0x72, 0x00] = .ok (.unknown 0x72, [0x00])

/-- Decoding an encoded well-formed command gives it back, whatever follows (30_encoding.md, formats and lengths). -/
def Obligations.DecodeInvertsEncode : Prop :=
  ∀ (i : Instr) (rest : List Byte), i.wellFormed = true → decode (encode i ++ rest) = .ok (i, rest)

/-- Whatever decodes is a well-formed command's encoding: a frame has one meaning (30_encoding.md, formats and
lengths). -/
def Obligations.EncodeInvertsDecode : Prop :=
  ∀ (bs : List Byte) (i : Instr) (rest : List Byte), decode bs = .ok (i, rest) →
    i.wellFormed = true ∧ bs = encode i ++ rest

/-- 30_encoding.md R99: the two addresses, most significant byte first, zero-extended. -/
def Obligations.AddressFieldsBigEndian : Prop :=
  ∀ (b5 b6 b7 b8 b9 b10 : Byte) (rest : List Byte), ∃ startA endA : Addr,
    startA.toNat = b5.toNat * 0x10000 + b6.toNat * 0x100 + b7.toNat ∧
    endA.toNat = b8.toNat * 0x10000 + b9.toNat * 0x100 + b10.toNat ∧
    decode (0x53 :: 0x52 :: 0x41 :: 0x4D :: 0x52 :: b5 :: b6 :: b7 :: b8 :: b9 :: b10 :: rest)
      = .ok (.read startA endA, rest) ∧
    decode (0x53 :: 0x52 :: 0x41 :: 0x4D :: 0x57 :: b5 :: b6 :: b7 :: b8 :: b9 :: b10 :: rest)
      = .ok (.write startA endA, rest)

/-- One byte of the sync scan (42_command_framer.md R182, R183; 60_exceptions.md R301). It only moves the scan: nothing is
sent, no pin, mode or register changes, and no cause is recorded. That `rx_ready` falls at the edge that takes the byte,
although another RxByte follows, is the model's choice (log entry 14). (At SYNC0 with a whole frame waiting,
`StepRunsDecodedFrame` applies instead.) -/
def Obligations.SyncScanByte : Prop :=
  ∀ (s : State) (k : Fin 4) (b : Byte) (rest : List Byte), running s → s.ctl = .sync k → s.rxReady = true →
    s.hostRx = b :: rest → (k = 0 → ∀ r, decode s.hostRx ≠ .ok r) →
    step s = .next { s with
      rxReady := false
      hostRx := rest
      trace := s.trace ++ [.rx b]
      ctl :=
        if b.toNat = [0x53, 0x52, 0x41, 0x4D].getD k.val 0 then
          if h : k.val + 1 < 4 then .sync ⟨k.val + 1, h⟩ else .instr
        else if s.cfg.syncRetest = true ∧ b = 0x53 then .sync 1
        else .sync 0 }

/-- Bytes that complete no sync marker are discarded silently, and the frame after them runs as if they had not been sent:
where they bring the scan back to SYNC0, broken partial markers among them, and, with `SYNC_RETEST`, also where they end
inside a partial marker (42_command_framer.md, the sync scan and its silence). The run's last step is that of the whole
command (log entry 1). -/
def Obligations.NoiseThenFrame : Prop :=
  ∀ (s : State) (noise : List Byte) (i : Instr) (rest : List Byte), running s → s.ctl = .sync 0 →
    i.wellFormed = true → s.hostRx = noise ++ encode i ++ rest →
    let u : State := { s with
      rxReady := false
      hostRx := rest
      trace := s.trace ++ (noise ++ encode i).map Event.rx }
    (scanned s.cfg.syncRetest (.sync 0) noise = .sync 0 → ∃ k, run k s = exec i u) ∧
    (∀ j, s.cfg.syncRetest = true → scanned true (.sync 0) noise = .sync j → s.txValid = false →
      s.busPhase = .idle → ∃ k, run k s = exec i u)

/-- The instruction byte is read whole and dispatched; nothing is sent and no pin changes (42_command_framer.md R184). The
labels are those of the main loop (an unknown byte begins its abort). The model's choices: `rx_ready` falls before ADDR0
(log entry 14), the dispatch takes no edge of its own and records the cause at once (log entry 17), and an unknown byte
leaves `cause_val` (log entry 12). -/
def Obligations.DispatchOnInstructionByte : Prop :=
  ∀ (s : State) (b : Byte) (rest : List Byte), running s → s.ctl = .instr → s.rxReady = true → s.hostRx = b :: rest →
    step s = .next { s with
      op := b
      rxReady := false
      hostRx := rest
      trace := s.trace ++ [.rx b]
      ctl := if b = 0x53 then .sOk else if b = 0x52 ∨ b = 0x57 then .addr 0 else .errEmit
      cause := if b = 0x53 ∨ b = 0x52 ∨ b = 0x57 then s.cause else .unknownCmd }

/-- Six address bytes, big-endian, then CHECK; with fewer the CORE waits in ADDRk for ever (42_command_framer.md R186). Any
byte values are taken. The model's choices: two edges a byte, `rx_ready` raised and the byte taken (log entry 14), and the
wait as a step that answers the same state (log entry 13). -/
def Obligations.RangeOperandsReceived : Prop :=
  (∀ (s : State) (b0 b1 b2 b3 b4 b5 : Byte) (rest : List Byte), running s → s.ctl = .addr 0 → s.rxReady = false →
    s.hostRx = [b0, b1, b2, b3, b4, b5] ++ rest →
    run 12 s = .next { s with
      ctl := .check
      startAddr := b0 ++ b1 ++ b2
      endAddr := b3 ++ b4 ++ b5
      hostRx := rest
      trace := s.trace ++ [b0, b1, b2, b3, b4, b5].map Event.rx }) ∧
  (∀ (s : State) (bs : List Byte) (h : bs.length < 6), running s → s.ctl = .addr 0 → s.rxReady = false →
    s.hostRx = bs →
    ∃ t : State, run (2 * bs.length + 1) s = .next t ∧ t.ctl = .addr ⟨bs.length, h⟩ ∧ t.rxReady = true ∧
      t.hostRx = [] ∧ t.trace = s.trace ++ bs.map Event.rx ∧ ∀ n, run n t = .next t)

/-- The checks at CHECK, in their order, on the full 24-bit values (42_command_framer.md R188). The model's choices: CHECK
takes one edge (log entry 17), and RANGE_ORDER leaves `cause_val` (log entry 12). -/
def Obligations.ValidationOrder : Prop :=
  ∀ s : State, running s → s.ctl = .check → (s.op = 0x52 ∨ s.op = 0x57) →
    step s = .next (
      if ¬ s.startAddr.toNat < 0x20000 then
        { s with ctl := .errEmit, cause := .startOob, causeVal := s.startAddr }
      else if ¬ s.endAddr.toNat ≤ 0x20000 then
        { s with ctl := .errEmit, cause := .endOob, causeVal := s.endAddr }
      else if ¬ s.startAddr.toNat < s.endAddr.toNat then
        { s with ctl := .errEmit, cause := .rangeOrder }
      else { s with ctl := if s.op = 0x52 then .rEnter else .wEnter })

/-! ## Status, unknown commands, invalid ranges -/

/-- Status sends exactly "OK" and changes nothing else, whatever the state (43_commands.md R212, R213); while the host does
not accept, the first byte stays offered. What `tx_data` and the encoder's registers hold at the end is the model's choice
(log entry 22). -/
def Obligations.StatusAnswersOk : Prop :=
  ∀ s : State,
    (s.txReady = true → exec .status s = .next { s with
      op := 0x53
      ctl := .sync 0
      txData := 0x4B
      txValid := false
      encFrame := none
      encPos := 0
      trace := s.trace ++ [.tx 0x4F, .tx 0x4B] }) ∧
    (s.txReady = false → exec .status s = .next (offering .sOk .ok 0x4F { s with op := 0x53 }))

/-- An unknown command sends its error frame and changes nothing else (43_commands.md R224; the mode is IDLE already
whenever `ABORT_TO_IDLE` holds). The model's choices: `cause_val` stays, as the cause reports no address (log entry 12), and
what `tx_data` and the encoder's registers hold at the end (log entry 22). -/
def Obligations.UnknownAnswersError : Prop :=
  ∀ (s : State) (op : Byte) (rest : List Byte), op ≠ 0x53 → op ≠ 0x52 → op ≠ 0x57 →
    decode (0x53 :: 0x52 :: 0x41 :: 0x4D :: op :: rest) = .ok (.unknown op, rest) ∧
    (s.txReady = true → pinsQuiet s →
      exec (.unknown op) s = .next (afterAbort s.cfg.msgUnknownCmd { s with op := op }))

/-- An invalid range of a Read or a Write sends one error frame, the message of the failed bound for its full 24-bit value,
and transfers nothing (60_exceptions.md R302, R303, R304). The model's choices: a bound's message as plain data (log
entry 10), `cause_val` kept by RANGE_ORDER (log entry 12), what `tx_data` and the encoder's registers hold at the end (log
entry 22). -/
def Obligations.InvalidRangeAborts : Prop :=
  ∀ (s : State) (i : Instr) (op : Byte) (a b : Addr), s.txReady = true → pinsQuiet s →
    (i = .read a b ∧ op = 0x52 ∨ i = .write a b ∧ op = 0x57) →
    (0x20000 ≤ a.toNat → exec i s = .next (afterAbort (message s.cfg .startOob a)
      { s with op := op, startAddr := a, endAddr := b, causeVal := a })) ∧
    (a.toNat < 0x20000 → 0x20000 < b.toNat →
      exec i s = .next (afterAbort (message s.cfg .endOob b)
        { s with op := op, startAddr := a, endAddr := b, causeVal := b })) ∧
    (a.toNat < 0x20000 → b.toNat ≤ 0x20000 → b.toNat ≤ a.toNat →
      exec i s = .next (afterAbort s.cfg.msgRangeOrder { s with op := op, startAddr := a, endAddr := b }))

/-- Every abort whose host does not accept waits with the error frame's first byte offered and the cause recorded: an
unknown command, each failing range of a Read and of a Write, and a bad token at R_TOKCHK (60_exceptions.md, the abort
procedure; 10_state.md, the transmit handshake). The model's choices: a cause without an address leaves `cause_val` (log
entry 12), R_TOKCHK and the first offer take one edge each (log entries 14 and 17). -/
def Obligations.AbortWaitsForHost : Prop :=
  ∀ s : State, s.txReady = false →
    (∀ op : Byte, op ≠ 0x53 → op ≠ 0x52 → op ≠ 0x57 → exec (.unknown op) s =
      .next (offering .errEmit .ng 0x4E { s with op := op, cause := .unknownCmd })) ∧
    (∀ (i : Instr) (op : Byte) (a b : Addr), (i = .read a b ∧ op = 0x52 ∨ i = .write a b ∧ op = 0x57) →
      let u : State := { s with op := op, startAddr := a, endAddr := b }
      (0x20000 ≤ a.toNat →
        exec i s = .next (offering .errEmit .ng 0x4E { u with cause := .startOob, causeVal := a })) ∧
      (a.toNat < 0x20000 → 0x20000 < b.toNat →
        exec i s = .next (offering .errEmit .ng 0x4E { u with cause := .endOob, causeVal := b })) ∧
      (a.toNat < 0x20000 → b.toNat ≤ 0x20000 → b.toNat ≤ a.toNat →
        exec i s = .next (offering .errEmit .ng 0x4E { u with cause := .rangeOrder }))) ∧
    (running s → s.ctl = .rTokchk → s.txValid = false → ¬ (s.tok0 = 0x43 ∧ s.tok1 = 0x4F) →
      run 2 s = .next (offering .errEmit .ng 0x4E { s with cause := .flowDesync }))

/-- After every abort the next framed command runs: an unknown command, a Read or Write with an invalid range, or a Read
with a bad token sends its error frame, and any well-formed frame after it then runs from SYNC0 (60_exceptions.md, return
and nesting). That two steps do it is the model's grain of a step (log entry 1). -/
def Obligations.AbortThenNextCommand : Prop :=
  ∀ (s : State) (i j : Instr) (tail rest : List Byte), running s → s.ctl = .sync 0 → s.txReady = true → pinsQuiet s →
    i.wellFormed = true → j.wellFormed = true → s.hostRx = encode i ++ tail ++ encode j ++ rest →
    ((∃ op, i = .unknown op) ∧ tail = [] ∨
      (∃ a b, (i = .read a b ∨ i = .write a b) ∧ ¬ validRange a b) ∧ tail = [] ∨
      (∃ (a b : Addr) (w : Nat) (t0 t1 : Byte), i = .read a b ∧ validRange a b ∧
        w < windowCount (b.toNat - a.toNat) ∧ ¬ (t0 = 0x43 ∧ t1 = 0x4F) ∧ tail = tokens w ++ [t0, t1])) →
    ∃ (u : State) (c : Cause) (v : Addr) (sent : List Byte), step s = .next u ∧ running u ∧ u.ctl = .sync 0 ∧
      pinsQuiet u ∧ u.cause = .none ∧ u.txValid = false ∧ u.mem = s.mem ∧ u.hostRx = encode j ++ rest ∧
      reports c v ∧ (tail = [] → sent = []) ∧
      sentBytes u.trace = sentBytes s.trace ++ sent ++ errorBytes (message s.cfg c v) ∧
      run 2 s = exec j { u with
        rxReady := false
        hostRx := rest
        trace := u.trace ++ (encode j).map Event.rx }

/-! ## Read -/

/-- A Read whose tokens are all sent (43_commands.md, section 2; 44_flow_control.md, section 1), of any chip: the announcing
"CO", per window a token received, per byte one READ_BYTE and the byte sent (`sampledAt`: the SRAM's byte under the
reference SRAM, a draw else), "OK", IDLE. Every field not named in `readStarted`, `readProgress` and `transferDone` is
unchanged, the SRAM with them. What the serializer's, the bus controller's and the encoder's registers and `tx_data` hold
at the end is the model's choice (log entry 22). -/
def Obligations.ReadCompletes : Prop :=
  ∀ (s : State) (a b : Addr) (rest : List Byte), s.txReady = true → pinsQuiet s → validRange a b →
    s.hostRx = tokens (windowCount (b.toNat - a.toNat)) ++ rest →
    exec (.read a b) s =
      .next { transferDone (readProgress a (b.toNat - a.toNat) (readStarted a b s)) with hostRx := rest }

/-- The link of a Read, for any chip: exactly `end - start` bytes, each the sampled one, in ascending address order, between
"CO" and "OK"; the SRAM is unchanged (43_commands.md, section 2; 44_flow_control.md, section 1). -/
def Obligations.ReadLinkStream : Prop :=
  ∀ (s : State) (a b : Addr) (rest : List Byte), s.txReady = true → pinsQuiet s → validRange a b →
    s.hostRx = tokens (windowCount (b.toNat - a.toNat)) ++ rest →
    ∃ (t : State) (d : Nat → Byte), exec (.read a b) s = .next t ∧ t.ctl = .sync 0 ∧ t.mode = modeIdle ∧
      t.hostRx = rest ∧ t.mem = s.mem ∧
      t.trace = s.trace ++ coBytes.map Event.tx ++ readPayloadTrace s.srData a d (b.toNat - a.toNat) ++
        okBytes.map Event.tx ∧
      linkEvents t.trace = linkEvents s.trace ++ coBytes.map Event.tx ++ readPayloadLink d (b.toNat - a.toNat) ++
        okBytes.map Event.tx ∧
      (sentBytes t.trace).length = (sentBytes s.trace).length + (b.toNat - a.toNat) + 4 ∧
      (receivedBytes t.trace).length =
        (receivedBytes s.trace).length + 2 * windowCount (b.toNat - a.toNat)

/-- A bad token at window `w` aborts after both its bytes and after the earlier windows' bytes, of any chip
(44_flow_control.md R243); with `ABORT_TO_IDLE` false the mode stays READ. The model's choices: `cause_val` stays (log
entry 12), and what the serializer's, the bus controller's and the encoder's registers and `tx_data` hold (log
entry 22). -/
def Obligations.ReadDesyncAborts : Prop :=
  ∀ (s : State) (a b : Addr) (w : Nat) (t0 t1 : Byte) (rest : List Byte), s.txReady = true → pinsQuiet s →
    validRange a b → w < windowCount (b.toNat - a.toNat) →
    ¬ (t0 = 0x43 ∧ t1 = 0x4F) → s.hostRx = tokens w ++ t0 :: t1 :: rest →
    exec (.read a b) s = .next (afterAbort s.cfg.msgFlowDesync
      (let u := readProgress a (32 * w) (readStarted a b s)
      { u with
        tok0 := t0
        tok1 := t1
        rxReady := false
        hostRx := rest
        trace := u.trace ++ [.rx t0, .rx t1] }))

/-- A Read whose next token has not come, or only its first byte, waits for it with `rx_ready` raised, of any chip
(44_flow_control.md, section 1; 70_reset_and_hazards.md, read pacing). What the serializer's, the bus controller's and the
encoder's registers hold while it waits is the model's choice (log entry 22). -/
def Obligations.ReadWaitsForToken : Prop :=
  ∀ (s : State) (a b : Addr) (w : Nat), s.txReady = true → pinsQuiet s →
    validRange a b → w < windowCount (b.toNat - a.toNat) →
    (let u := readProgress a (32 * w) (readStarted a b s)
    (s.hostRx = tokens w → exec (.read a b) s = .next
      { u with ctl := .rToken0, rxReady := true, hostRx := [] }) ∧
    (∀ x : Byte, s.hostRx = tokens w ++ [x] → exec (.read a b) s = .next
      { u with
        ctl := .rToken1
        tok0 := x
        rxReady := true
        hostRx := []
        trace := u.trace ++ [.rx x] }))

/-- A valid Read or Write whose host does not accept the first "CO" waits with it offered, in its mode
(43_commands.md; 10_state.md, the transmit handshake). -/
def Obligations.TransfersWaitForSink : Prop :=
  ∀ (s : State) (a b : Addr), s.txReady = false → pinsQuiet s → validRange a b →
    exec (.read a b) s = .next (offering .rAnnounce .co 0x43
      { s with op := 0x52, startAddr := a, endAddr := b, mode := modeRead }) ∧
    exec (.write a b) s = .next (offering .wGrant .co 0x43 (writeStarted a b s))

/-! ## Write -/

/-- A Write whose payload is all sent (43_commands.md, section 3; 44_flow_control.md, section 2): per window a "CO", per
byte one WRITE_BYTE, "OK", IDLE. Byte `i` of the payload is then at `start + i`, and every address outside the range reads
as before. The model's choices: what the serializer's, the bus controller's and the encoder's registers and `tx_data` hold
at the end (log entry 22), and that the contents follow the reference rule with any chip (log entry 25). -/
def Obligations.WriteCompletes : Prop :=
  ∀ (s : State) (a b : Addr) (p rest : List Byte), s.txReady = true → pinsQuiet s → validRange a b →
    p.length = b.toNat - a.toNat → s.hostRx = p ++ rest →
    ∃ t : State, exec (.write a b) s = .next t ∧
      t = { transferDone (writeProgress a (fun i => p.getD i 0) (b.toNat - a.toNat) (writeStarted a b s)) with
        hostRx := rest } ∧
      (∀ i, i < p.length → memRead t.mem (a.toNat + i) = p.getD i 0) ∧
      (∀ x, x < a.toNat ∨ b.toNat ≤ x → memRead t.mem x = memRead s.mem x)

/-- The link of a Write: exactly one grant per window and "OK" sent, exactly the payload received
(43_commands.md, section 3). -/
def Obligations.WriteLinkStream : Prop :=
  ∀ (s : State) (a b : Addr) (p rest : List Byte), s.txReady = true → pinsQuiet s → validRange a b →
    p.length = b.toNat - a.toNat → s.hostRx = p ++ rest →
    ∃ t : State, exec (.write a b) s = .next t ∧ t.ctl = .sync 0 ∧ t.mode = modeIdle ∧ t.dOe = false ∧
      t.hostRx = rest ∧
      linkEvents t.trace = linkEvents s.trace ++ writePayloadLink (fun i => p.getD i 0) (b.toNat - a.toNat) ++
        okBytes.map Event.tx ∧
      sentBytes t.trace = sentBytes s.trace ++ tokens (windowCount (b.toNat - a.toNat)) ++ okBytes ∧
      receivedBytes t.trace = receivedBytes s.trace ++ p

/-- A Write with `k` of its bytes sent has written those and waits for the next, after the grant where one is due
(44_flow_control.md, section 2; 70_reset_and_hazards.md, no timeout). The model's choices: what the serializer's, the bus
controller's and the encoder's registers hold while it waits (log entry 22), and the contents with an unknown chip (log
entry 25). -/
def Obligations.WriteWaitsForPayload : Prop :=
  ∀ (s : State) (a b : Addr) (p : List Byte), s.txReady = true → pinsQuiet s → validRange a b →
    p.length < b.toNat - a.toNat → s.hostRx = p →
    exec (.write a b) s = .next
      (let t := writeProgress a (fun i => p.getD i 0) p.length (writeStarted a b s)
      { (if p.length % 32 = 0 then
          { t with
            txData := 0x4F, txValid := false, encFrame := none, encPos := 0
            trace := t.trace ++ coBytes.map Event.tx }
        else t) with ctl := .wRecv, rxReady := true, hostRx := [] })

/-- What one Write stores the next Read of the range returns (20_memory.md, the reference SRAM and its round trip). That two
steps run both commands is the model's grain of a step (log entry 1). -/
def Obligations.RoundTripWriteThenRead : Prop :=
  ∀ (s : State) (a b : Addr) (p rest : List Byte), running s → s.ctl = .sync 0 → s.txReady = true → pinsQuiet s →
    s.cfg.chip = .reference → validRange a b → p.length = b.toNat - a.toNat →
    s.hostRx = encode (.write a b) ++ p ++ encode (.read a b) ++ tokens (windowCount p.length) ++ rest →
    ∃ t, run 2 s = .next t ∧ t.hostRx = rest ∧
      sentBytes t.trace = sentBytes s.trace ++ (tokens (windowCount p.length) ++ okBytes) ++
        (coBytes ++ p ++ okBytes)

/-- No command changes a byte of the SRAM outside the range of a Write (20_memory.md, side effects and protection). -/
def Obligations.OnlyWriteChangesMemory : Prop :=
  ∀ (i : Instr) (s t : State) (x : Nat), pinsQuiet s → exec i s = .next t →
    (∀ a b : Addr, i = .write a b → x < a.toNat ∨ b.toNat ≤ x) →
    memRead t.mem x = memRead s.mem x

/-! ## The bus -/

/-- SERIALIZE clocks out the 24 bits, bit 23 first, one high-low pulse of `sr_clk` per bit, and leaves the address in the
chain (40_address_serializer.md). -/
def Obligations.SerializeClocksAddress : Prop :=
  ∀ (s : State) (a : Addr), s.srClk = false → ∃ es : List Event,
    (serialize a s).trace = s.trace ++ es ∧
    clockedBits s.srData es = (List.range 24).map (fun i => a.getLsbD (23 - i)) ∧
    clockLevels es = (List.replicate 24 [true, false]).flatten ∧
    (serialize a s).chain = a ∧ (serialize a s).srClk = false ∧ (serialize a s).srData = a.getLsbD 0 ∧
    (serialize a s).mem = s.mem ∧ (serialize a s).oeAct = s.oeAct ∧ (serialize a s).weAct = s.weAct ∧
    (serialize a s).dOe = s.dOe ∧ (serialize a s).dOut = s.dOut

/-- READ_BYTE clock by clock, under the reference SRAM: the byte at `start + idx` is latched, and nothing of the SRAM
changes (41_bus_mode_controller.md, section 3). What `ser_addr`, `ser_bit`, `ser_phase` and `dly` hold at the end is the
model's choice (log entry 22). -/
def Obligations.ReadByteLatchesMemory : Prop :=
  ∀ s : State, s.rst = false → s.mode = modeRead → s.ctl = .rRead → s.busPhase = .idle → pinsQuiet s →
    s.cfg.chip = .reference → (byteAddr s).toNat < 0x20000 →
    ∃ k, run k s = .next { s with
      ctl := .rSend
      data := memRead s.mem (byteAddr s).toNat
      chain := byteAddr s
      serAddr := byteAddr s
      serBit := 0
      serPhase := .idle
      dly := 0
      srData := (byteAddr s).getLsbD 0
      trace := s.trace ++ readByteEvents s.srData (byteAddr s) (memRead s.mem (byteAddr s).toNat) }

/-- WRITE_BYTE clock by clock: the byte at `start + idx` is written, and no other (41_bus_mode_controller.md, section 3). The
contents with an unknown chip are the model's choice (log entry 25). -/
def Obligations.WriteByteCommitsByte : Prop :=
  ∀ s : State, s.rst = false → s.mode = modeWrite → s.ctl = .wWrite → s.busPhase = .idle → s.srClk = false →
    s.weAct = false → s.dOe = true → (byteAddr s).toNat < 0x20000 →
    ∃ k t, run k s = .next t ∧ t.idx = s.idx + 1 ∧ t.busPhase = .idle ∧ t.weAct = false ∧ t.dOe = true ∧
      t.dOut = s.data ∧ t.chain = byteAddr s ∧
      memRead t.mem (byteAddr s).toNat = s.data ∧
      (∀ x, x ≠ (byteAddr s).toNat → memRead t.mem x = memRead s.mem x) ∧
      t.trace = s.trace ++ writeByteEvents s.srData (byteAddr s) s.dOut s.data

/-- A transaction outside its mode faults and is not performed (41_bus_mode_controller.md, preconditions). -/
def Obligations.TransactionsOutsideTheirModeFault : Prop :=
  ∀ s : State, running s → s.busPhase = .idle →
    (s.ctl = .rRead → s.mode ≠ modeRead → step s = .fault .readOutsideReadMode) ∧
    (s.ctl = .wWrite → s.mode ≠ modeWrite → step s = .fault .writeOutsideWriteMode)

/-- The unreachable mode encoding faults (10_state.md, the bus mode). That every step of a running CORE checks it, before
anything but reset, is the model's choice (log entry 16). -/
def Obligations.IllegalModeFaults : Prop :=
  ∀ s : State, s.rst = false → s.mode = 0b11 → step s = .fault .illegalMode

/-- 41_bus_mode_controller.md R152, R153, R154: each entry makes the enables inactive, sets the direction and the mode;
with the enables inactive already, its only event is a change of direction. -/
def Obligations.ModeEntries : Prop :=
  ∀ s : State,
    ((enterIdle s).mode = 0b00 ∧ (enterIdle s).dOe = false ∧ (enterIdle s).oeAct = false ∧
      (enterIdle s).weAct = false) ∧
    ((enterRead s).mode = 0b01 ∧ (enterRead s).dOe = false ∧ (enterRead s).oeAct = false ∧
      (enterRead s).weAct = false) ∧
    ((enterWrite s).mode = 0b10 ∧ (enterWrite s).dOe = true ∧ (enterWrite s).oeAct = false ∧
      (enterWrite s).weAct = false) ∧
    (s.oeAct = false → s.weAct = false →
      enterIdle s = { s with
        mode := 0b00
        dOe := false
        trace := s.trace ++ if s.dOe = true then [.pin (.dOe false)] else [] } ∧
      enterRead s = { s with
        mode := 0b01
        dOe := false
        trace := s.trace ++ if s.dOe = true then [.pin (.dOe false)] else [] } ∧
      enterWrite s = { s with
        mode := 0b10
        dOe := true
        trace := s.trace ++ if s.dOe = true then [] else [.pin (.dOe true)] })

/-- 41_bus_mode_controller.md R167: at a clock edge of the CORE, the direction changes only at a mode entry, and each
enable only inside its transaction (a reset edge is `ResetEdgeValues`). -/
def Obligations.PinsChangeOnlyInTheirOperations : Prop :=
  ∀ s t : State, Inv s → tick s = .go t →
    (t.dOe ≠ s.dOe → s.ctl = .rEnter ∨ s.ctl = .wEnter ∨ s.ctl = .doneIdle ∨ s.ctl = .errIdle) ∧
    (t.mode ≠ s.mode → s.ctl = .rEnter ∨ s.ctl = .wEnter ∨ s.ctl = .doneIdle ∨ s.ctl = .errIdle) ∧
    (t.oeAct ≠ s.oeAct → s.ctl = .rRead ∧ s.busPhase ≠ .idle) ∧
    (t.weAct ≠ s.weAct → s.ctl = .wWrite ∧ s.busPhase ≠ .idle)

/-- 10_state.md R31: the electrical levels of the enables, at either polarity. -/
def Obligations.ElectricalLevels : Prop :=
  ∀ s : State, sramOe s = (s.oeAct ^^ s.cfg.enableActiveLow) ∧ sramWe s = (s.weAct ^^ s.cfg.enableActiveLow) ∧
    State.reset.cfg.enableActiveLow = true

/-- Settle delays: the events that a wait follows load the down-counter with the build's cycles, and while it counts
nothing else changes; the default build's counts realise the delays (10_state.md and 70_reset_and_hazards.md, settle
delays). That the clock of the default build is 1 MHz is the model's choice (log entry 9). -/
def Obligations.SettleDelayHolds : Prop :=
  (∀ (s : State) (n : Nat), running s → n ≤ s.dly →
    (s.ctl = .rRead ∧ (s.busPhase = .settleAddr ∨ s.busPhase = .settleEnable) ∨
      s.ctl = .wWrite ∧ (s.busPhase = .settleAddr ∨ s.busPhase = .settleEnable ∨ s.busPhase = .settleHold) ∨
      (s.ctl = .rRead ∨ s.ctl = .wWrite) ∧ s.busPhase = .serialize ∧
        (s.serPhase = .settleData ∨ s.serPhase = .settleRise ∨ s.serPhase = .settleFall)) →
    run n s = .next { s with dly := s.dly - n }) ∧
  (∀ s t : State, (s.ctl = .rRead ∨ s.ctl = .wWrite) → tick s = .go t →
    (s.busPhase = .assertEnable → t.busPhase = .settleEnable ∧ t.dly = s.cfg.settleBus) ∧
    (s.busPhase = .serialize → (s.serPhase = .data ∨ s.serPhase = .rise ∨ s.serPhase = .fall) →
      t.dly = s.cfg.settleSr ∧
        (t.serPhase = .settleData ∨ t.serPhase = .settleRise ∨ t.serPhase = .settleFall)) ∧
    (s.busPhase = .serialize → t.busPhase ≠ .serialize → t.busPhase = .settleAddr ∧ t.dly = s.cfg.settleBus) ∧
    (s.busPhase = .deassert → s.ctl = .wWrite → t.busPhase = .settleHold ∧ t.dly = s.cfg.settleBus)) ∧
  delaysMet State.reset.cfg

/-! ## Waiting and responses -/

/-- A CORE that waits for a byte, or for its byte to be accepted, waits for ever: no number of steps changes anything
(70_reset_and_hazards.md R354). That the wait is a step answering the same state, where the spec has no step, is the
model's choice (log entry 13). -/
def Obligations.HostWaitsHold : Prop :=
  ∀ (s : State) (n : Nat), running s →
    (receives s.ctl = true ∧ s.rxReady = true ∧ s.hostRx = [] ∨
      sends s.ctl = true ∧ s.txValid = true ∧ s.txReady = false) →
    run n s = .next s

/-- A frame whose byte is offered goes on when the host accepts: exactly the rest of its bytes, one an edge, nothing
between them (10_state.md, the transmit handshake; 45_response_encoder.md, whole frames). -/
def Obligations.FrameResumesAfterWait : Prop :=
  ∀ (s : State) (f : FrameKind), running s → frameAt s.ctl = some f → s.encFrame = some f → s.txValid = true →
    s.txReady = true → s.encPos < (frameBytes f s).length → s.txData = (frameBytes f s).getD s.encPos 0 →
    ∃ t, run ((frameBytes f s).length - s.encPos) s = .next t ∧
      t.trace = s.trace ++ ((frameBytes f s).drop s.encPos).map Event.tx ∧ t.encFrame = none ∧
      t.txValid = false ∧ t.ctl ≠ s.ctl ∧ t.mem = s.mem ∧ t.hostRx = s.hostRx ∧ t.mode = s.mode

/-- 45_response_encoder.md R264: "OK" and "CO" have no terminator; an Error frame is "NG", the message and one `0x00`,
the first one where the message holds none. -/
def Obligations.ErrorFrameTermination : Prop :=
  ∀ s : State,
    frameBytes .ok s = [0x4F, 0x4B] ∧ frameBytes .co s = [0x43, 0x4F] ∧
    frameBytes .ng s = errorBytes (message s.cfg s.cause s.causeVal) ∧
    (0x00 ∉ message s.cfg s.cause s.causeVal →
      (frameBytes .ng s).count 0x00 = 1 ∧ (frameBytes .ng s).getLast? = some 0x00 ∧
        (frameBytes .ng s).length = 3 + (message s.cfg s.cause s.causeVal).length)

/-- The default build is one the spec allows, and its messages have the properties every message has
(45_response_encoder.md, section 1; 70_reset_and_hazards.md, section 3). Its clock of 1 MHz is the model's choice (log
entry 9). -/
def Obligations.DefaultMessages : Prop :=
  buildOk defaultParams ∧
  (∀ (c : Cause) (v : Addr), c ≠ .none →
    message defaultParams c v ≠ [] ∧
      ∀ x ∈ message defaultParams c v, 0x20 ≤ x.toNat ∧ x.toNat ≤ 0x7E) ∧
  (∀ v : Addr, textStarting <:+: message defaultParams .startOob v ∧ dec v <:+: message defaultParams .startOob v ∧
    textEnding <:+: message defaultParams .endOob v ∧ dec v <:+: message defaultParams .endOob v ∧
    message defaultParams .unknownCmd v = textUnknownCmd) ∧
  (∀ (c d : Cause) (v w : Addr), (c = .rangeOrder ∨ c = .flowDesync) → c ≠ d →
    message defaultParams c v ≠ message defaultParams d w)

/-- 45_response_encoder.md R272: the decimal value, most significant digit first, no leading zeros, 1 to 8 digits. -/
def Obligations.DecimalDigits : Prop :=
  (∀ v : Addr,
    (∀ x ∈ dec v, 0x30 ≤ x.toNat ∧ x.toNat ≤ 0x39) ∧
    (dec v).foldl (fun n x => 10 * n + (x.toNat - 0x30)) 0 = v.toNat ∧
    1 ≤ (dec v).length ∧ (dec v).length ≤ 8 ∧
    ((dec v).head? = some 0x30 → dec v = [0x30]) ∧
    (131072 ≤ v.toNat → 6 ≤ (dec v).length)) ∧
  dec 0 = [0x30] ∧ dec 0xFFFFFF = [0x31, 0x36, 0x37, 0x37, 0x37, 0x32, 0x31, 0x35]

/-- 44_flow_control.md R241: an index begins a window exactly at the multiples of 32; `n` bytes have `ceil(n / 32)`
windows; window `w` holds the indices `32w` to `min(32w + 31, n - 1)`. -/
def Obligations.WindowBoundaries : Prop :=
  (∀ i : Idx, atWindowStart i = true ↔ i.toNat % 32 = 0) ∧
  (∀ n : Nat, ((List.range n).filter fun i => i % 32 = 0).length = windowCount n) ∧
  (∀ n i w : Nat, w < windowCount n →
    ((i < n ∧ i / 32 = w) ↔ (32 * w ≤ i ∧ i ≤ min (32 * w + 31) (n - 1))))

/-- In every state of a run of a build the spec allows, an abort's frame is "NG", a non-empty message without `0x00`, and one
`0x00`; the message names the bound that failed and its value, or is the unknown-command text (45_response_encoder.md,
sections before and under Error messages). -/
def Obligations.ReachableErrorFrames : Prop :=
  ∀ s : State, Reachable s → s.ctl = .errEmit →
    let m := message s.cfg s.cause s.causeVal
    frameBytes .ng s = errorBytes m ∧ m ≠ [] ∧ (frameBytes .ng s).count 0x00 = 1 ∧
    (frameBytes .ng s).getLast? = some 0x00 ∧
    (s.cause = .startOob → textStarting <:+: m ∧ dec s.causeVal <:+: m ∧ 0x20000 ≤ s.causeVal.toNat) ∧
    (s.cause = .endOob → textEnding <:+: m ∧ dec s.causeVal <:+: m ∧ 0x20000 < s.causeVal.toNat) ∧
    (s.cause = .unknownCmd → textUnknownCmd <:+: m)

/-! ## Going on after a wait -/

/-- The clock edges of a token: each byte offered is taken into its register, and R_TOKCHK goes to the transaction on a
match and to the FLOW_DESYNC abort else (44_flow_control.md, section 1). The model's choices: the edge at which `rx_ready`
falls (log entry 14), one edge for R_TOKCHK (log entry 17), `cause_val` kept (log entry 12). -/
def Obligations.TokenEdges : Prop :=
  ∀ s : State, running s →
    (∀ (b : Byte) (rest : List Byte), s.rxReady = true → s.hostRx = b :: rest →
      (s.ctl = .rToken0 → step s = .next { s with
        tok0 := b, ctl := .rToken1, rxReady := false, hostRx := rest, trace := s.trace ++ [.rx b] }) ∧
      (s.ctl = .rToken1 → step s = .next { s with
        tok1 := b, ctl := .rTokchk, rxReady := false, hostRx := rest, trace := s.trace ++ [.rx b] })) ∧
    (s.ctl = .rTokchk → step s = .next (
      if s.tok0 = 0x43 ∧ s.tok1 = 0x4F then { s with ctl := .rRead }
      else { s with ctl := .errEmit, cause := .flowDesync }))

/-- The clock edges at R_SEND: the data byte is offered; when the host accepts it the next index follows, with its token
where it begins a window, or the closing "OK", whose first byte is offered at once (44_flow_control.md, section 1;
10_state.md, the transmit handshake). The edges are the model's choice (log entries 14 and 17). -/
def Obligations.DataByteEdges : Prop :=
  ∀ s : State, running s → s.ctl = .rSend →
    (s.txValid = false → step s = .next { s with txData := s.data, txValid := true }) ∧
    (s.txValid = true → s.txReady = true → step s = .next (
      let u : State := { s with idx := s.idx + 1, txValid := false, trace := s.trace ++ [.tx s.txData] }
      if u.idx.toNat < s.endAddr.toNat - s.startAddr.toNat then
        { u with ctl := if u.idx.toNat % 32 = 0 then .rToken0 else .rRead }
      else offering .doneOk .ok 0x4F u))

/-- The clock edge at W_RECV: the payload byte is taken and its WRITE_BYTE comes next (44_flow_control.md, section 2). The
edge at which `rx_ready` falls is the model's choice (log entry 14). -/
def Obligations.PayloadByteEdge : Prop :=
  ∀ (s : State) (b : Byte) (rest : List Byte), running s → s.ctl = .wRecv → s.rxReady = true → s.hostRx = b :: rest →
    step s = .next { s with
      data := b
      ctl := .wWrite
      rxReady := false
      hostRx := rest
      trace := s.trace ++ [.rx b] }

/-- A command that waits goes on when the host sends more or begins to accept, and ends as if it had done so from the
start: if the command answers `t` and, with the bytes `q` more in the channel and `tx_ready = r`, `u`, then a run from `t`
with these bytes and this level reaches `u`, on every field (10_state.md, the two handshakes; 70_reset_and_hazards.md, no
timeout; log entry 1 for the two grains of a step). -/
def Obligations.CommandResumesAfterWait : Prop :=
  ∀ (i : Instr) (s t u : State) (q : List Byte) (r : Bool), running s → s.txValid = false → s.busPhase = .idle →
    (s.txReady = true → r = true) → exec i s = .next t →
    exec i { s with hostRx := s.hostRx ++ q, txReady := r } = .next u →
    ∃ k, run k { t with hostRx := t.hostRx ++ q, txReady := r } = .next u

/-! ## The whole machine -/

/-- The invariant holds after reset. -/
def Obligations.InvariantHoldsAtReset : Prop := Inv State.reset

/-- Every step keeps the invariant: a legal mode, the direction following it, enables only inside their transactions,
a valid range and index while bytes are transferred, the memory's form. -/
def Obligations.StepKeepsInvariant : Prop :=
  ∀ s t : State, Inv s → step s = .next t → Inv t

/-- From a state with the invariant every step answers a next state: no fault, no refusal. -/
def Obligations.InvariantStepNeverFaults : Prop :=
  ∀ s : State, Inv s → ∃ t, step s = .next t

/-- At SYNC0 the invariant gives quiet pins, and the mode is IDLE unless an abort left READ with `ABORT_TO_IDLE` false
(41_bus_mode_controller.md, section 4). -/
def Obligations.InvariantGivesQuietPins : Prop :=
  ∀ s : State, Inv s → s.ctl = .sync 0 →
    pinsQuiet s ∧ s.txValid = false ∧ s.busPhase = .idle ∧ s.cause = .none ∧
    (s.mode = modeIdle ∨ s.mode = modeRead ∧ s.cfg.abortToIdle = false)

/-- In every state a run can be in, whatever the build (also one the spec rules out), the host and the reset pin do: the
enables exclude each other, each is asserted only with its direction and mode, and the direction follows the mode
(41_bus_mode_controller.md, section 4). -/
def Obligations.ReachableBusSafety : Prop :=
  ∀ s : State, ReachableWith (fun _ => True) s →
    ¬ (s.oeAct = true ∧ s.weAct = true) ∧
    (s.oeAct = true → s.dOe = false ∧ s.mode = modeRead) ∧
    (s.weAct = true → s.dOe = true ∧ s.mode = modeWrite) ∧
    (s.dOe = true ↔ s.mode = modeWrite) ∧
    (s.ctl ≠ .rRead → s.ctl ≠ .wWrite → s.oeAct = false ∧ s.weAct = false) ∧
    s.mode ≠ 0b11

/-- While a byte is transferred its address is `start + idx`, inside the SRAM, without wrap (44_flow_control.md,
section 3). -/
def Obligations.TransferAddressInRange : Prop :=
  ∀ s : State, Inv s → transfers s.ctl = true →
    (byteAddr s).toNat = s.startAddr.toNat + s.idx.toNat ∧ (byteAddr s).toNat < s.endAddr.toNat ∧
    s.endAddr.toNat ≤ 0x20000 ∧ s.idx.toNat ≤ 0x1FFFF

/-- A step only adds to the trace, takes bytes from the front of the host's channel and records each, and never changes
the build (10_state.md, the receive handshake and the absence of control registers). The model's choices: no step changes
`tx_ready` or `rst` (log entry 3), and a reset edge keeps the trace (log entry 18). -/
def Obligations.StepAccountsForEveryByte : Prop :=
  ∀ s t : State, step s = .next t → ∃ es : List Event,
    t.trace = s.trace ++ es ∧ s.hostRx = receivedBytes es ++ t.hostRx ∧
    t.cfg = s.cfg ∧ t.txReady = s.txReady ∧ t.rst = s.rst

/-- The clocked controller, edge by edge, reaches exactly the state that the command's meaning answers: the two
descriptions of a command agree on every field, waits included (log entry 1). -/
def Obligations.ClockedReachesCommandEnd : Prop :=
  ∀ (s : State) (i : Instr) (rest : List Byte), s.ctl = .sync 0 → s.txValid = false → s.busPhase = .idle →
    decode s.hostRx = .ok (i, rest) →
    ∃ (k : Nat) (t : State), ticks k s = .go t ∧ exec i (acceptFrame (frameLength i) s) = .next t
end

