-- ==== Sys2Proof/Laws/Memory.lean ====
section
/-! SUPPORT. The SRAM contents: read after write, and the canonical form. -/

namespace Sys2Proof.Machine

@[simp] theorem memLookup_nil (a : Nat) : memLookup [] a = none := rfl

theorem memLookup_memWrite_same (m : Memory) (a : Nat) (b : Byte) :
    memLookup (memWrite m a b) a = some b := by
  induction m with
  | nil => simp [memWrite, memLookup]
  | cons c m ih =>
    obtain ⟨k, v⟩ := c
    by_cases h1 : a < k
    · simp [memWrite, memLookup, h1]
    · by_cases h2 : a = k
      · simp [memWrite, memLookup, h2]
      · have h3 : k ≠ a := fun h => h2 h.symm
        simp [memWrite, memLookup, h1, h2, h3, ih]

theorem memLookup_memWrite_other (m : Memory) {a x : Nat} (b : Byte) (hx : x ≠ a) :
    memLookup (memWrite m a b) x = memLookup m x := by
  have ha : a ≠ x := fun h => hx h.symm
  induction m with
  | nil => simp [memWrite, memLookup, ha]
  | cons c m ih =>
    obtain ⟨k, v⟩ := c
    by_cases h1 : a < k
    · simp [memWrite, memLookup, h1, ha]
    · by_cases h2 : a = k
      · subst h2; simp [memWrite, memLookup, ha]
      · by_cases h3 : k = x
        · subst h3; simp [memWrite, memLookup, h1, h2]
        · simp [memWrite, memLookup, h1, h2, h3, ih]

/-- A byte reads as it was last written. -/
@[simp] theorem memRead_memWrite_same (m : Memory) (a : Nat) (b : Byte) :
    memRead (memWrite m a b) a = b := by
  simp [memRead, memLookup_memWrite_same]

/-- A write leaves every other byte alone. -/
theorem memRead_memWrite_other (m : Memory) {a x : Nat} (b : Byte) (hx : x ≠ a) :
    memRead (memWrite m a b) x = memRead m x := by
  simp [memRead, memLookup_memWrite_other m b hx]

/-- Every address of a written memory is the written one or was there. -/
theorem mem_memWrite {m : Memory} {a : Nat} {b : Byte} {c : Host.Cell} (h : c ∈ memWrite m a b) :
    c = (a, b) ∨ c ∈ m := by
  induction m with
  | nil => simpa [memWrite] using h
  | cons d m ih =>
    obtain ⟨k, v⟩ := d
    by_cases h1 : a < k
    · simpa [memWrite, h1] using h
    · by_cases h2 : a = k
      · subst h2
        simp only [memWrite, lt_irrefl, if_true, if_false, List.mem_cons] at h ⊢
        tauto
      · simp only [memWrite, h1, h2, if_false, List.mem_cons] at h ⊢
        rcases h with h | h
        · exact .inr (.inl h)
        · rcases ih h with h | h
          · exact .inl h
          · exact .inr (.inr h)

/-- A write keeps the canonical form. -/
theorem memWf_memWrite {m : Memory} {a : Nat} (b : Byte) (hm : memWf m) (ha : a < Config.memSize) :
    memWf (memWrite m a b) := by
  refine ⟨?_, fun c hc => ?_⟩
  · obtain ⟨hs, -⟩ := hm
    induction m with
    | nil => simp [memWrite]
    | cons d m ih =>
      obtain ⟨k, v⟩ := d
      rw [List.pairwise_cons] at hs
      by_cases h1 : a < k
      · simp only [memWrite, h1, if_true, List.pairwise_cons, List.mem_cons]
        exact ⟨fun c hc => hc.elim (fun h => h ▸ h1) (fun h => lt_trans h1 (hs.1 c h)), hs.1, hs.2⟩
      · by_cases h2 : a = k
        · subst h2
          simp only [memWrite, lt_irrefl, if_true, if_false, List.pairwise_cons]
          exact hs
        · simp only [memWrite, h1, h2, if_false, List.pairwise_cons]
          refine ⟨fun c hc => ?_, ih hs.2⟩
          rcases mem_memWrite hc with rfl | h
          · simp only; omega
          · exact hs.1 c h
  · rcases mem_memWrite hc with rfl | h
    · exact ha
    · exact hm.2 c h

/-- The memory of the reset state has the canonical form. -/
theorem memWf_reset : memWf State.reset.mem := ⟨List.Pairwise.nil, fun _ h => nomatch h⟩

/-- The address the chip sees exists. -/
theorem chipAddr_lt (s : State) : chipAddr s < Config.memSize := by
  have := (s.chain.extractLsb' 0 17).isLt
  simpa [chipAddr, Config.memSize] using this

/-- Every write of the reference SRAM keeps the canonical form. -/
theorem memWf_setWeAct (v : Bool) {s : State} (h : memWf s.mem) : memWf (setWeAct v s).mem := by
  by_cases hc : (s.weAct && !v && s.dOe) = true
  · simp only [setWeAct, hc, if_true]; exact memWf_memWrite _ h (chipAddr_lt s)
  · simp only [setWeAct, hc]; exact h

/-- A reset edge keeps the canonical form. -/
theorem memWf_resetEdge {s : State} (h : memWf s.mem) : memWf (resetEdge s).mem := by
  by_cases hc : s.weAct = true
  · simp only [resetEdge, hc, if_true]; exact memWf_memWrite _ h (chipAddr_lt s)
  · simp only [resetEdge, hc]; exact h

end Sys2Proof.Machine
end

