-- ==== Sys2Proof/Laws/State.lean ====
section
/-! SUPPORT. What each shared update of the state leaves in each field, by `rfl`. -/

namespace Sys2Proof.Machine

/-! ### setSrData -/

@[simp] theorem setSrData_ctl (v : Bool) (s : State) : (setSrData v s).ctl = s.ctl := rfl
@[simp] theorem setSrData_mode (v : Bool) (s : State) : (setSrData v s).mode = s.mode := rfl
@[simp] theorem setSrData_startAddr (v : Bool) (s : State) : (setSrData v s).startAddr = s.startAddr := rfl
@[simp] theorem setSrData_endAddr (v : Bool) (s : State) : (setSrData v s).endAddr = s.endAddr := rfl
@[simp] theorem setSrData_idx (v : Bool) (s : State) : (setSrData v s).idx = s.idx := rfl
@[simp] theorem setSrData_op (v : Bool) (s : State) : (setSrData v s).op = s.op := rfl
@[simp] theorem setSrData_tok0 (v : Bool) (s : State) : (setSrData v s).tok0 = s.tok0 := rfl
@[simp] theorem setSrData_tok1 (v : Bool) (s : State) : (setSrData v s).tok1 = s.tok1 := rfl
@[simp] theorem setSrData_data (v : Bool) (s : State) : (setSrData v s).data = s.data := rfl
@[simp] theorem setSrData_cause (v : Bool) (s : State) : (setSrData v s).cause = s.cause := rfl
@[simp] theorem setSrData_causeVal (v : Bool) (s : State) : (setSrData v s).causeVal = s.causeVal := rfl
@[simp] theorem setSrData_rxReady (v : Bool) (s : State) : (setSrData v s).rxReady = s.rxReady := rfl
@[simp] theorem setSrData_txValid (v : Bool) (s : State) : (setSrData v s).txValid = s.txValid := rfl
@[simp] theorem setSrData_txData (v : Bool) (s : State) : (setSrData v s).txData = s.txData := rfl
@[simp] theorem setSrData_srData (v : Bool) (s : State) : (setSrData v s).srData = v := rfl
@[simp] theorem setSrData_srClk (v : Bool) (s : State) : (setSrData v s).srClk = s.srClk := rfl
@[simp] theorem setSrData_oeAct (v : Bool) (s : State) : (setSrData v s).oeAct = s.oeAct := rfl
@[simp] theorem setSrData_weAct (v : Bool) (s : State) : (setSrData v s).weAct = s.weAct := rfl
@[simp] theorem setSrData_dOe (v : Bool) (s : State) : (setSrData v s).dOe = s.dOe := rfl
@[simp] theorem setSrData_dOut (v : Bool) (s : State) : (setSrData v s).dOut = s.dOut := rfl
@[simp] theorem setSrData_serAddr (v : Bool) (s : State) : (setSrData v s).serAddr = s.serAddr := rfl
@[simp] theorem setSrData_serBit (v : Bool) (s : State) : (setSrData v s).serBit = s.serBit := rfl
@[simp] theorem setSrData_serPhase (v : Bool) (s : State) : (setSrData v s).serPhase = s.serPhase := rfl
@[simp] theorem setSrData_busPhase (v : Bool) (s : State) : (setSrData v s).busPhase = s.busPhase := rfl
@[simp] theorem setSrData_dly (v : Bool) (s : State) : (setSrData v s).dly = s.dly := rfl
@[simp] theorem setSrData_encFrame (v : Bool) (s : State) : (setSrData v s).encFrame = s.encFrame := rfl
@[simp] theorem setSrData_encPos (v : Bool) (s : State) : (setSrData v s).encPos = s.encPos := rfl
@[simp] theorem setSrData_hostRx (v : Bool) (s : State) : (setSrData v s).hostRx = s.hostRx := rfl
@[simp] theorem setSrData_txReady (v : Bool) (s : State) : (setSrData v s).txReady = s.txReady := rfl
@[simp] theorem setSrData_rst (v : Bool) (s : State) : (setSrData v s).rst = s.rst := rfl
@[simp] theorem setSrData_chain (v : Bool) (s : State) : (setSrData v s).chain = s.chain := rfl
@[simp] theorem setSrData_mem (v : Bool) (s : State) : (setSrData v s).mem = s.mem := rfl
@[simp] theorem setSrData_cfg (v : Bool) (s : State) : (setSrData v s).cfg = s.cfg := rfl
@[simp] theorem setSrData_draws (v : Bool) (s : State) : (setSrData v s).draws = s.draws := rfl
@[simp] theorem setSrData_trace (v : Bool) (s : State) : (setSrData v s).trace = s.trace ++ pinEvent (s.srData != v) (.srData v) := rfl

/-! ### setSrClk -/

@[simp] theorem setSrClk_ctl (v : Bool) (s : State) : (setSrClk v s).ctl = s.ctl := rfl
@[simp] theorem setSrClk_mode (v : Bool) (s : State) : (setSrClk v s).mode = s.mode := rfl
@[simp] theorem setSrClk_startAddr (v : Bool) (s : State) : (setSrClk v s).startAddr = s.startAddr := rfl
@[simp] theorem setSrClk_endAddr (v : Bool) (s : State) : (setSrClk v s).endAddr = s.endAddr := rfl
@[simp] theorem setSrClk_idx (v : Bool) (s : State) : (setSrClk v s).idx = s.idx := rfl
@[simp] theorem setSrClk_op (v : Bool) (s : State) : (setSrClk v s).op = s.op := rfl
@[simp] theorem setSrClk_tok0 (v : Bool) (s : State) : (setSrClk v s).tok0 = s.tok0 := rfl
@[simp] theorem setSrClk_tok1 (v : Bool) (s : State) : (setSrClk v s).tok1 = s.tok1 := rfl
@[simp] theorem setSrClk_data (v : Bool) (s : State) : (setSrClk v s).data = s.data := rfl
@[simp] theorem setSrClk_cause (v : Bool) (s : State) : (setSrClk v s).cause = s.cause := rfl
@[simp] theorem setSrClk_causeVal (v : Bool) (s : State) : (setSrClk v s).causeVal = s.causeVal := rfl
@[simp] theorem setSrClk_rxReady (v : Bool) (s : State) : (setSrClk v s).rxReady = s.rxReady := rfl
@[simp] theorem setSrClk_txValid (v : Bool) (s : State) : (setSrClk v s).txValid = s.txValid := rfl
@[simp] theorem setSrClk_txData (v : Bool) (s : State) : (setSrClk v s).txData = s.txData := rfl
@[simp] theorem setSrClk_srData (v : Bool) (s : State) : (setSrClk v s).srData = s.srData := rfl
@[simp] theorem setSrClk_srClk (v : Bool) (s : State) : (setSrClk v s).srClk = v := rfl
@[simp] theorem setSrClk_oeAct (v : Bool) (s : State) : (setSrClk v s).oeAct = s.oeAct := rfl
@[simp] theorem setSrClk_weAct (v : Bool) (s : State) : (setSrClk v s).weAct = s.weAct := rfl
@[simp] theorem setSrClk_dOe (v : Bool) (s : State) : (setSrClk v s).dOe = s.dOe := rfl
@[simp] theorem setSrClk_dOut (v : Bool) (s : State) : (setSrClk v s).dOut = s.dOut := rfl
@[simp] theorem setSrClk_serAddr (v : Bool) (s : State) : (setSrClk v s).serAddr = s.serAddr := rfl
@[simp] theorem setSrClk_serBit (v : Bool) (s : State) : (setSrClk v s).serBit = s.serBit := rfl
@[simp] theorem setSrClk_serPhase (v : Bool) (s : State) : (setSrClk v s).serPhase = s.serPhase := rfl
@[simp] theorem setSrClk_busPhase (v : Bool) (s : State) : (setSrClk v s).busPhase = s.busPhase := rfl
@[simp] theorem setSrClk_dly (v : Bool) (s : State) : (setSrClk v s).dly = s.dly := rfl
@[simp] theorem setSrClk_encFrame (v : Bool) (s : State) : (setSrClk v s).encFrame = s.encFrame := rfl
@[simp] theorem setSrClk_encPos (v : Bool) (s : State) : (setSrClk v s).encPos = s.encPos := rfl
@[simp] theorem setSrClk_hostRx (v : Bool) (s : State) : (setSrClk v s).hostRx = s.hostRx := rfl
@[simp] theorem setSrClk_txReady (v : Bool) (s : State) : (setSrClk v s).txReady = s.txReady := rfl
@[simp] theorem setSrClk_rst (v : Bool) (s : State) : (setSrClk v s).rst = s.rst := rfl
@[simp] theorem setSrClk_chain (v : Bool) (s : State) : (setSrClk v s).chain = if !s.srClk && v then shiftChain s.chain s.srData else s.chain := rfl
@[simp] theorem setSrClk_mem (v : Bool) (s : State) : (setSrClk v s).mem = s.mem := rfl
@[simp] theorem setSrClk_cfg (v : Bool) (s : State) : (setSrClk v s).cfg = s.cfg := rfl
@[simp] theorem setSrClk_draws (v : Bool) (s : State) : (setSrClk v s).draws = s.draws := rfl
@[simp] theorem setSrClk_trace (v : Bool) (s : State) : (setSrClk v s).trace = s.trace ++ pinEvent (s.srClk != v) (.srClk v) := rfl

/-! ### setOeAct -/

@[simp] theorem setOeAct_ctl (v : Bool) (s : State) : (setOeAct v s).ctl = s.ctl := rfl
@[simp] theorem setOeAct_mode (v : Bool) (s : State) : (setOeAct v s).mode = s.mode := rfl
@[simp] theorem setOeAct_startAddr (v : Bool) (s : State) : (setOeAct v s).startAddr = s.startAddr := rfl
@[simp] theorem setOeAct_endAddr (v : Bool) (s : State) : (setOeAct v s).endAddr = s.endAddr := rfl
@[simp] theorem setOeAct_idx (v : Bool) (s : State) : (setOeAct v s).idx = s.idx := rfl
@[simp] theorem setOeAct_op (v : Bool) (s : State) : (setOeAct v s).op = s.op := rfl
@[simp] theorem setOeAct_tok0 (v : Bool) (s : State) : (setOeAct v s).tok0 = s.tok0 := rfl
@[simp] theorem setOeAct_tok1 (v : Bool) (s : State) : (setOeAct v s).tok1 = s.tok1 := rfl
@[simp] theorem setOeAct_data (v : Bool) (s : State) : (setOeAct v s).data = s.data := rfl
@[simp] theorem setOeAct_cause (v : Bool) (s : State) : (setOeAct v s).cause = s.cause := rfl
@[simp] theorem setOeAct_causeVal (v : Bool) (s : State) : (setOeAct v s).causeVal = s.causeVal := rfl
@[simp] theorem setOeAct_rxReady (v : Bool) (s : State) : (setOeAct v s).rxReady = s.rxReady := rfl
@[simp] theorem setOeAct_txValid (v : Bool) (s : State) : (setOeAct v s).txValid = s.txValid := rfl
@[simp] theorem setOeAct_txData (v : Bool) (s : State) : (setOeAct v s).txData = s.txData := rfl
@[simp] theorem setOeAct_srData (v : Bool) (s : State) : (setOeAct v s).srData = s.srData := rfl
@[simp] theorem setOeAct_srClk (v : Bool) (s : State) : (setOeAct v s).srClk = s.srClk := rfl
@[simp] theorem setOeAct_oeAct (v : Bool) (s : State) : (setOeAct v s).oeAct = v := rfl
@[simp] theorem setOeAct_weAct (v : Bool) (s : State) : (setOeAct v s).weAct = s.weAct := rfl
@[simp] theorem setOeAct_dOe (v : Bool) (s : State) : (setOeAct v s).dOe = s.dOe := rfl
@[simp] theorem setOeAct_dOut (v : Bool) (s : State) : (setOeAct v s).dOut = s.dOut := rfl
@[simp] theorem setOeAct_serAddr (v : Bool) (s : State) : (setOeAct v s).serAddr = s.serAddr := rfl
@[simp] theorem setOeAct_serBit (v : Bool) (s : State) : (setOeAct v s).serBit = s.serBit := rfl
@[simp] theorem setOeAct_serPhase (v : Bool) (s : State) : (setOeAct v s).serPhase = s.serPhase := rfl
@[simp] theorem setOeAct_busPhase (v : Bool) (s : State) : (setOeAct v s).busPhase = s.busPhase := rfl
@[simp] theorem setOeAct_dly (v : Bool) (s : State) : (setOeAct v s).dly = s.dly := rfl
@[simp] theorem setOeAct_encFrame (v : Bool) (s : State) : (setOeAct v s).encFrame = s.encFrame := rfl
@[simp] theorem setOeAct_encPos (v : Bool) (s : State) : (setOeAct v s).encPos = s.encPos := rfl
@[simp] theorem setOeAct_hostRx (v : Bool) (s : State) : (setOeAct v s).hostRx = s.hostRx := rfl
@[simp] theorem setOeAct_txReady (v : Bool) (s : State) : (setOeAct v s).txReady = s.txReady := rfl
@[simp] theorem setOeAct_rst (v : Bool) (s : State) : (setOeAct v s).rst = s.rst := rfl
@[simp] theorem setOeAct_chain (v : Bool) (s : State) : (setOeAct v s).chain = s.chain := rfl
@[simp] theorem setOeAct_mem (v : Bool) (s : State) : (setOeAct v s).mem = s.mem := rfl
@[simp] theorem setOeAct_cfg (v : Bool) (s : State) : (setOeAct v s).cfg = s.cfg := rfl
@[simp] theorem setOeAct_draws (v : Bool) (s : State) : (setOeAct v s).draws = s.draws := rfl
@[simp] theorem setOeAct_trace (v : Bool) (s : State) : (setOeAct v s).trace = s.trace ++ pinEvent (s.oeAct != v) (.oeAct v) := rfl

/-! ### setWeAct -/

@[simp] theorem setWeAct_ctl (v : Bool) (s : State) : (setWeAct v s).ctl = s.ctl := rfl
@[simp] theorem setWeAct_mode (v : Bool) (s : State) : (setWeAct v s).mode = s.mode := rfl
@[simp] theorem setWeAct_startAddr (v : Bool) (s : State) : (setWeAct v s).startAddr = s.startAddr := rfl
@[simp] theorem setWeAct_endAddr (v : Bool) (s : State) : (setWeAct v s).endAddr = s.endAddr := rfl
@[simp] theorem setWeAct_idx (v : Bool) (s : State) : (setWeAct v s).idx = s.idx := rfl
@[simp] theorem setWeAct_op (v : Bool) (s : State) : (setWeAct v s).op = s.op := rfl
@[simp] theorem setWeAct_tok0 (v : Bool) (s : State) : (setWeAct v s).tok0 = s.tok0 := rfl
@[simp] theorem setWeAct_tok1 (v : Bool) (s : State) : (setWeAct v s).tok1 = s.tok1 := rfl
@[simp] theorem setWeAct_data (v : Bool) (s : State) : (setWeAct v s).data = s.data := rfl
@[simp] theorem setWeAct_cause (v : Bool) (s : State) : (setWeAct v s).cause = s.cause := rfl
@[simp] theorem setWeAct_causeVal (v : Bool) (s : State) : (setWeAct v s).causeVal = s.causeVal := rfl
@[simp] theorem setWeAct_rxReady (v : Bool) (s : State) : (setWeAct v s).rxReady = s.rxReady := rfl
@[simp] theorem setWeAct_txValid (v : Bool) (s : State) : (setWeAct v s).txValid = s.txValid := rfl
@[simp] theorem setWeAct_txData (v : Bool) (s : State) : (setWeAct v s).txData = s.txData := rfl
@[simp] theorem setWeAct_srData (v : Bool) (s : State) : (setWeAct v s).srData = s.srData := rfl
@[simp] theorem setWeAct_srClk (v : Bool) (s : State) : (setWeAct v s).srClk = s.srClk := rfl
@[simp] theorem setWeAct_oeAct (v : Bool) (s : State) : (setWeAct v s).oeAct = s.oeAct := rfl
@[simp] theorem setWeAct_weAct (v : Bool) (s : State) : (setWeAct v s).weAct = v := rfl
@[simp] theorem setWeAct_dOe (v : Bool) (s : State) : (setWeAct v s).dOe = s.dOe := rfl
@[simp] theorem setWeAct_dOut (v : Bool) (s : State) : (setWeAct v s).dOut = s.dOut := rfl
@[simp] theorem setWeAct_serAddr (v : Bool) (s : State) : (setWeAct v s).serAddr = s.serAddr := rfl
@[simp] theorem setWeAct_serBit (v : Bool) (s : State) : (setWeAct v s).serBit = s.serBit := rfl
@[simp] theorem setWeAct_serPhase (v : Bool) (s : State) : (setWeAct v s).serPhase = s.serPhase := rfl
@[simp] theorem setWeAct_busPhase (v : Bool) (s : State) : (setWeAct v s).busPhase = s.busPhase := rfl
@[simp] theorem setWeAct_dly (v : Bool) (s : State) : (setWeAct v s).dly = s.dly := rfl
@[simp] theorem setWeAct_encFrame (v : Bool) (s : State) : (setWeAct v s).encFrame = s.encFrame := rfl
@[simp] theorem setWeAct_encPos (v : Bool) (s : State) : (setWeAct v s).encPos = s.encPos := rfl
@[simp] theorem setWeAct_hostRx (v : Bool) (s : State) : (setWeAct v s).hostRx = s.hostRx := rfl
@[simp] theorem setWeAct_txReady (v : Bool) (s : State) : (setWeAct v s).txReady = s.txReady := rfl
@[simp] theorem setWeAct_rst (v : Bool) (s : State) : (setWeAct v s).rst = s.rst := rfl
@[simp] theorem setWeAct_chain (v : Bool) (s : State) : (setWeAct v s).chain = s.chain := rfl
@[simp] theorem setWeAct_mem (v : Bool) (s : State) : (setWeAct v s).mem = if s.weAct && !v && s.dOe then memWrite s.mem (chipAddr s) s.dOut else s.mem := rfl
@[simp] theorem setWeAct_cfg (v : Bool) (s : State) : (setWeAct v s).cfg = s.cfg := rfl
@[simp] theorem setWeAct_draws (v : Bool) (s : State) : (setWeAct v s).draws = s.draws := rfl
@[simp] theorem setWeAct_trace (v : Bool) (s : State) : (setWeAct v s).trace = s.trace ++ pinEvent (s.weAct != v) (.weAct v) := rfl

/-! ### setDOe -/

@[simp] theorem setDOe_ctl (v : Bool) (s : State) : (setDOe v s).ctl = s.ctl := rfl
@[simp] theorem setDOe_mode (v : Bool) (s : State) : (setDOe v s).mode = s.mode := rfl
@[simp] theorem setDOe_startAddr (v : Bool) (s : State) : (setDOe v s).startAddr = s.startAddr := rfl
@[simp] theorem setDOe_endAddr (v : Bool) (s : State) : (setDOe v s).endAddr = s.endAddr := rfl
@[simp] theorem setDOe_idx (v : Bool) (s : State) : (setDOe v s).idx = s.idx := rfl
@[simp] theorem setDOe_op (v : Bool) (s : State) : (setDOe v s).op = s.op := rfl
@[simp] theorem setDOe_tok0 (v : Bool) (s : State) : (setDOe v s).tok0 = s.tok0 := rfl
@[simp] theorem setDOe_tok1 (v : Bool) (s : State) : (setDOe v s).tok1 = s.tok1 := rfl
@[simp] theorem setDOe_data (v : Bool) (s : State) : (setDOe v s).data = s.data := rfl
@[simp] theorem setDOe_cause (v : Bool) (s : State) : (setDOe v s).cause = s.cause := rfl
@[simp] theorem setDOe_causeVal (v : Bool) (s : State) : (setDOe v s).causeVal = s.causeVal := rfl
@[simp] theorem setDOe_rxReady (v : Bool) (s : State) : (setDOe v s).rxReady = s.rxReady := rfl
@[simp] theorem setDOe_txValid (v : Bool) (s : State) : (setDOe v s).txValid = s.txValid := rfl
@[simp] theorem setDOe_txData (v : Bool) (s : State) : (setDOe v s).txData = s.txData := rfl
@[simp] theorem setDOe_srData (v : Bool) (s : State) : (setDOe v s).srData = s.srData := rfl
@[simp] theorem setDOe_srClk (v : Bool) (s : State) : (setDOe v s).srClk = s.srClk := rfl
@[simp] theorem setDOe_oeAct (v : Bool) (s : State) : (setDOe v s).oeAct = s.oeAct := rfl
@[simp] theorem setDOe_weAct (v : Bool) (s : State) : (setDOe v s).weAct = s.weAct := rfl
@[simp] theorem setDOe_dOe (v : Bool) (s : State) : (setDOe v s).dOe = v := rfl
@[simp] theorem setDOe_dOut (v : Bool) (s : State) : (setDOe v s).dOut = s.dOut := rfl
@[simp] theorem setDOe_serAddr (v : Bool) (s : State) : (setDOe v s).serAddr = s.serAddr := rfl
@[simp] theorem setDOe_serBit (v : Bool) (s : State) : (setDOe v s).serBit = s.serBit := rfl
@[simp] theorem setDOe_serPhase (v : Bool) (s : State) : (setDOe v s).serPhase = s.serPhase := rfl
@[simp] theorem setDOe_busPhase (v : Bool) (s : State) : (setDOe v s).busPhase = s.busPhase := rfl
@[simp] theorem setDOe_dly (v : Bool) (s : State) : (setDOe v s).dly = s.dly := rfl
@[simp] theorem setDOe_encFrame (v : Bool) (s : State) : (setDOe v s).encFrame = s.encFrame := rfl
@[simp] theorem setDOe_encPos (v : Bool) (s : State) : (setDOe v s).encPos = s.encPos := rfl
@[simp] theorem setDOe_hostRx (v : Bool) (s : State) : (setDOe v s).hostRx = s.hostRx := rfl
@[simp] theorem setDOe_txReady (v : Bool) (s : State) : (setDOe v s).txReady = s.txReady := rfl
@[simp] theorem setDOe_rst (v : Bool) (s : State) : (setDOe v s).rst = s.rst := rfl
@[simp] theorem setDOe_chain (v : Bool) (s : State) : (setDOe v s).chain = s.chain := rfl
@[simp] theorem setDOe_mem (v : Bool) (s : State) : (setDOe v s).mem = s.mem := rfl
@[simp] theorem setDOe_cfg (v : Bool) (s : State) : (setDOe v s).cfg = s.cfg := rfl
@[simp] theorem setDOe_draws (v : Bool) (s : State) : (setDOe v s).draws = s.draws := rfl
@[simp] theorem setDOe_trace (v : Bool) (s : State) : (setDOe v s).trace = s.trace ++ pinEvent (s.dOe != v) (.dOe v) := rfl

/-! ### setDOut -/

@[simp] theorem setDOut_ctl (v : Byte) (s : State) : (setDOut v s).ctl = s.ctl := rfl
@[simp] theorem setDOut_mode (v : Byte) (s : State) : (setDOut v s).mode = s.mode := rfl
@[simp] theorem setDOut_startAddr (v : Byte) (s : State) : (setDOut v s).startAddr = s.startAddr := rfl
@[simp] theorem setDOut_endAddr (v : Byte) (s : State) : (setDOut v s).endAddr = s.endAddr := rfl
@[simp] theorem setDOut_idx (v : Byte) (s : State) : (setDOut v s).idx = s.idx := rfl
@[simp] theorem setDOut_op (v : Byte) (s : State) : (setDOut v s).op = s.op := rfl
@[simp] theorem setDOut_tok0 (v : Byte) (s : State) : (setDOut v s).tok0 = s.tok0 := rfl
@[simp] theorem setDOut_tok1 (v : Byte) (s : State) : (setDOut v s).tok1 = s.tok1 := rfl
@[simp] theorem setDOut_data (v : Byte) (s : State) : (setDOut v s).data = s.data := rfl
@[simp] theorem setDOut_cause (v : Byte) (s : State) : (setDOut v s).cause = s.cause := rfl
@[simp] theorem setDOut_causeVal (v : Byte) (s : State) : (setDOut v s).causeVal = s.causeVal := rfl
@[simp] theorem setDOut_rxReady (v : Byte) (s : State) : (setDOut v s).rxReady = s.rxReady := rfl
@[simp] theorem setDOut_txValid (v : Byte) (s : State) : (setDOut v s).txValid = s.txValid := rfl
@[simp] theorem setDOut_txData (v : Byte) (s : State) : (setDOut v s).txData = s.txData := rfl
@[simp] theorem setDOut_srData (v : Byte) (s : State) : (setDOut v s).srData = s.srData := rfl
@[simp] theorem setDOut_srClk (v : Byte) (s : State) : (setDOut v s).srClk = s.srClk := rfl
@[simp] theorem setDOut_oeAct (v : Byte) (s : State) : (setDOut v s).oeAct = s.oeAct := rfl
@[simp] theorem setDOut_weAct (v : Byte) (s : State) : (setDOut v s).weAct = s.weAct := rfl
@[simp] theorem setDOut_dOe (v : Byte) (s : State) : (setDOut v s).dOe = s.dOe := rfl
@[simp] theorem setDOut_dOut (v : Byte) (s : State) : (setDOut v s).dOut = v := rfl
@[simp] theorem setDOut_serAddr (v : Byte) (s : State) : (setDOut v s).serAddr = s.serAddr := rfl
@[simp] theorem setDOut_serBit (v : Byte) (s : State) : (setDOut v s).serBit = s.serBit := rfl
@[simp] theorem setDOut_serPhase (v : Byte) (s : State) : (setDOut v s).serPhase = s.serPhase := rfl
@[simp] theorem setDOut_busPhase (v : Byte) (s : State) : (setDOut v s).busPhase = s.busPhase := rfl
@[simp] theorem setDOut_dly (v : Byte) (s : State) : (setDOut v s).dly = s.dly := rfl
@[simp] theorem setDOut_encFrame (v : Byte) (s : State) : (setDOut v s).encFrame = s.encFrame := rfl
@[simp] theorem setDOut_encPos (v : Byte) (s : State) : (setDOut v s).encPos = s.encPos := rfl
@[simp] theorem setDOut_hostRx (v : Byte) (s : State) : (setDOut v s).hostRx = s.hostRx := rfl
@[simp] theorem setDOut_txReady (v : Byte) (s : State) : (setDOut v s).txReady = s.txReady := rfl
@[simp] theorem setDOut_rst (v : Byte) (s : State) : (setDOut v s).rst = s.rst := rfl
@[simp] theorem setDOut_chain (v : Byte) (s : State) : (setDOut v s).chain = s.chain := rfl
@[simp] theorem setDOut_mem (v : Byte) (s : State) : (setDOut v s).mem = s.mem := rfl
@[simp] theorem setDOut_cfg (v : Byte) (s : State) : (setDOut v s).cfg = s.cfg := rfl
@[simp] theorem setDOut_draws (v : Byte) (s : State) : (setDOut v s).draws = s.draws := rfl
@[simp] theorem setDOut_trace (v : Byte) (s : State) : (setDOut v s).trace = s.trace ++ pinEvent (s.dOut != v) (.dOut v) := rfl

/-! ### sample -/

@[simp] theorem sample_ctl (s : State) : (sample s).ctl = s.ctl := rfl
@[simp] theorem sample_mode (s : State) : (sample s).mode = s.mode := rfl
@[simp] theorem sample_startAddr (s : State) : (sample s).startAddr = s.startAddr := rfl
@[simp] theorem sample_endAddr (s : State) : (sample s).endAddr = s.endAddr := rfl
@[simp] theorem sample_idx (s : State) : (sample s).idx = s.idx := rfl
@[simp] theorem sample_op (s : State) : (sample s).op = s.op := rfl
@[simp] theorem sample_tok0 (s : State) : (sample s).tok0 = s.tok0 := rfl
@[simp] theorem sample_tok1 (s : State) : (sample s).tok1 = s.tok1 := rfl
@[simp] theorem sample_data (s : State) : (sample s).data = dataLines s := rfl
@[simp] theorem sample_cause (s : State) : (sample s).cause = s.cause := rfl
@[simp] theorem sample_causeVal (s : State) : (sample s).causeVal = s.causeVal := rfl
@[simp] theorem sample_rxReady (s : State) : (sample s).rxReady = s.rxReady := rfl
@[simp] theorem sample_txValid (s : State) : (sample s).txValid = s.txValid := rfl
@[simp] theorem sample_txData (s : State) : (sample s).txData = s.txData := rfl
@[simp] theorem sample_srData (s : State) : (sample s).srData = s.srData := rfl
@[simp] theorem sample_srClk (s : State) : (sample s).srClk = s.srClk := rfl
@[simp] theorem sample_oeAct (s : State) : (sample s).oeAct = s.oeAct := rfl
@[simp] theorem sample_weAct (s : State) : (sample s).weAct = s.weAct := rfl
@[simp] theorem sample_dOe (s : State) : (sample s).dOe = s.dOe := rfl
@[simp] theorem sample_dOut (s : State) : (sample s).dOut = s.dOut := rfl
@[simp] theorem sample_serAddr (s : State) : (sample s).serAddr = s.serAddr := rfl
@[simp] theorem sample_serBit (s : State) : (sample s).serBit = s.serBit := rfl
@[simp] theorem sample_serPhase (s : State) : (sample s).serPhase = s.serPhase := rfl
@[simp] theorem sample_busPhase (s : State) : (sample s).busPhase = s.busPhase := rfl
@[simp] theorem sample_dly (s : State) : (sample s).dly = s.dly := rfl
@[simp] theorem sample_encFrame (s : State) : (sample s).encFrame = s.encFrame := rfl
@[simp] theorem sample_encPos (s : State) : (sample s).encPos = s.encPos := rfl
@[simp] theorem sample_hostRx (s : State) : (sample s).hostRx = s.hostRx := rfl
@[simp] theorem sample_txReady (s : State) : (sample s).txReady = s.txReady := rfl
@[simp] theorem sample_rst (s : State) : (sample s).rst = s.rst := rfl
@[simp] theorem sample_chain (s : State) : (sample s).chain = s.chain := rfl
@[simp] theorem sample_mem (s : State) : (sample s).mem = s.mem := rfl
@[simp] theorem sample_cfg (s : State) : (sample s).cfg = s.cfg := rfl
@[simp] theorem sample_draws (s : State) : (sample s).draws = if chipDrives s then s.draws else s.draws + 1 := rfl
@[simp] theorem sample_trace (s : State) : (sample s).trace = s.trace ++ [.sample (dataLines s)] := rfl

/-! ### acceptByte -/

@[simp] theorem acceptByte_ctl (b : Byte) (q : List Byte) (s : State) : (acceptByte b q s).ctl = s.ctl := rfl
@[simp] theorem acceptByte_mode (b : Byte) (q : List Byte) (s : State) : (acceptByte b q s).mode = s.mode := rfl
@[simp] theorem acceptByte_startAddr (b : Byte) (q : List Byte) (s : State) : (acceptByte b q s).startAddr = s.startAddr := rfl
@[simp] theorem acceptByte_endAddr (b : Byte) (q : List Byte) (s : State) : (acceptByte b q s).endAddr = s.endAddr := rfl
@[simp] theorem acceptByte_idx (b : Byte) (q : List Byte) (s : State) : (acceptByte b q s).idx = s.idx := rfl
@[simp] theorem acceptByte_op (b : Byte) (q : List Byte) (s : State) : (acceptByte b q s).op = s.op := rfl
@[simp] theorem acceptByte_tok0 (b : Byte) (q : List Byte) (s : State) : (acceptByte b q s).tok0 = s.tok0 := rfl
@[simp] theorem acceptByte_tok1 (b : Byte) (q : List Byte) (s : State) : (acceptByte b q s).tok1 = s.tok1 := rfl
@[simp] theorem acceptByte_data (b : Byte) (q : List Byte) (s : State) : (acceptByte b q s).data = s.data := rfl
@[simp] theorem acceptByte_cause (b : Byte) (q : List Byte) (s : State) : (acceptByte b q s).cause = s.cause := rfl
@[simp] theorem acceptByte_causeVal (b : Byte) (q : List Byte) (s : State) : (acceptByte b q s).causeVal = s.causeVal := rfl
@[simp] theorem acceptByte_rxReady (b : Byte) (q : List Byte) (s : State) : (acceptByte b q s).rxReady = false := rfl
@[simp] theorem acceptByte_txValid (b : Byte) (q : List Byte) (s : State) : (acceptByte b q s).txValid = s.txValid := rfl
@[simp] theorem acceptByte_txData (b : Byte) (q : List Byte) (s : State) : (acceptByte b q s).txData = s.txData := rfl
@[simp] theorem acceptByte_srData (b : Byte) (q : List Byte) (s : State) : (acceptByte b q s).srData = s.srData := rfl
@[simp] theorem acceptByte_srClk (b : Byte) (q : List Byte) (s : State) : (acceptByte b q s).srClk = s.srClk := rfl
@[simp] theorem acceptByte_oeAct (b : Byte) (q : List Byte) (s : State) : (acceptByte b q s).oeAct = s.oeAct := rfl
@[simp] theorem acceptByte_weAct (b : Byte) (q : List Byte) (s : State) : (acceptByte b q s).weAct = s.weAct := rfl
@[simp] theorem acceptByte_dOe (b : Byte) (q : List Byte) (s : State) : (acceptByte b q s).dOe = s.dOe := rfl
@[simp] theorem acceptByte_dOut (b : Byte) (q : List Byte) (s : State) : (acceptByte b q s).dOut = s.dOut := rfl
@[simp] theorem acceptByte_serAddr (b : Byte) (q : List Byte) (s : State) : (acceptByte b q s).serAddr = s.serAddr := rfl
@[simp] theorem acceptByte_serBit (b : Byte) (q : List Byte) (s : State) : (acceptByte b q s).serBit = s.serBit := rfl
@[simp] theorem acceptByte_serPhase (b : Byte) (q : List Byte) (s : State) : (acceptByte b q s).serPhase = s.serPhase := rfl
@[simp] theorem acceptByte_busPhase (b : Byte) (q : List Byte) (s : State) : (acceptByte b q s).busPhase = s.busPhase := rfl
@[simp] theorem acceptByte_dly (b : Byte) (q : List Byte) (s : State) : (acceptByte b q s).dly = s.dly := rfl
@[simp] theorem acceptByte_encFrame (b : Byte) (q : List Byte) (s : State) : (acceptByte b q s).encFrame = s.encFrame := rfl
@[simp] theorem acceptByte_encPos (b : Byte) (q : List Byte) (s : State) : (acceptByte b q s).encPos = s.encPos := rfl
@[simp] theorem acceptByte_hostRx (b : Byte) (q : List Byte) (s : State) : (acceptByte b q s).hostRx = q := rfl
@[simp] theorem acceptByte_txReady (b : Byte) (q : List Byte) (s : State) : (acceptByte b q s).txReady = s.txReady := rfl
@[simp] theorem acceptByte_rst (b : Byte) (q : List Byte) (s : State) : (acceptByte b q s).rst = s.rst := rfl
@[simp] theorem acceptByte_chain (b : Byte) (q : List Byte) (s : State) : (acceptByte b q s).chain = s.chain := rfl
@[simp] theorem acceptByte_mem (b : Byte) (q : List Byte) (s : State) : (acceptByte b q s).mem = s.mem := rfl
@[simp] theorem acceptByte_cfg (b : Byte) (q : List Byte) (s : State) : (acceptByte b q s).cfg = s.cfg := rfl
@[simp] theorem acceptByte_draws (b : Byte) (q : List Byte) (s : State) : (acceptByte b q s).draws = s.draws := rfl
@[simp] theorem acceptByte_trace (b : Byte) (q : List Byte) (s : State) : (acceptByte b q s).trace = s.trace ++ [.rx b] := rfl

/-! ### offerByte -/

@[simp] theorem offerByte_ctl (b : Byte) (s : State) : (offerByte b s).ctl = s.ctl := rfl
@[simp] theorem offerByte_mode (b : Byte) (s : State) : (offerByte b s).mode = s.mode := rfl
@[simp] theorem offerByte_startAddr (b : Byte) (s : State) : (offerByte b s).startAddr = s.startAddr := rfl
@[simp] theorem offerByte_endAddr (b : Byte) (s : State) : (offerByte b s).endAddr = s.endAddr := rfl
@[simp] theorem offerByte_idx (b : Byte) (s : State) : (offerByte b s).idx = s.idx := rfl
@[simp] theorem offerByte_op (b : Byte) (s : State) : (offerByte b s).op = s.op := rfl
@[simp] theorem offerByte_tok0 (b : Byte) (s : State) : (offerByte b s).tok0 = s.tok0 := rfl
@[simp] theorem offerByte_tok1 (b : Byte) (s : State) : (offerByte b s).tok1 = s.tok1 := rfl
@[simp] theorem offerByte_data (b : Byte) (s : State) : (offerByte b s).data = s.data := rfl
@[simp] theorem offerByte_cause (b : Byte) (s : State) : (offerByte b s).cause = s.cause := rfl
@[simp] theorem offerByte_causeVal (b : Byte) (s : State) : (offerByte b s).causeVal = s.causeVal := rfl
@[simp] theorem offerByte_rxReady (b : Byte) (s : State) : (offerByte b s).rxReady = s.rxReady := rfl
@[simp] theorem offerByte_txValid (b : Byte) (s : State) : (offerByte b s).txValid = true := rfl
@[simp] theorem offerByte_txData (b : Byte) (s : State) : (offerByte b s).txData = b := rfl
@[simp] theorem offerByte_srData (b : Byte) (s : State) : (offerByte b s).srData = s.srData := rfl
@[simp] theorem offerByte_srClk (b : Byte) (s : State) : (offerByte b s).srClk = s.srClk := rfl
@[simp] theorem offerByte_oeAct (b : Byte) (s : State) : (offerByte b s).oeAct = s.oeAct := rfl
@[simp] theorem offerByte_weAct (b : Byte) (s : State) : (offerByte b s).weAct = s.weAct := rfl
@[simp] theorem offerByte_dOe (b : Byte) (s : State) : (offerByte b s).dOe = s.dOe := rfl
@[simp] theorem offerByte_dOut (b : Byte) (s : State) : (offerByte b s).dOut = s.dOut := rfl
@[simp] theorem offerByte_serAddr (b : Byte) (s : State) : (offerByte b s).serAddr = s.serAddr := rfl
@[simp] theorem offerByte_serBit (b : Byte) (s : State) : (offerByte b s).serBit = s.serBit := rfl
@[simp] theorem offerByte_serPhase (b : Byte) (s : State) : (offerByte b s).serPhase = s.serPhase := rfl
@[simp] theorem offerByte_busPhase (b : Byte) (s : State) : (offerByte b s).busPhase = s.busPhase := rfl
@[simp] theorem offerByte_dly (b : Byte) (s : State) : (offerByte b s).dly = s.dly := rfl
@[simp] theorem offerByte_encFrame (b : Byte) (s : State) : (offerByte b s).encFrame = s.encFrame := rfl
@[simp] theorem offerByte_encPos (b : Byte) (s : State) : (offerByte b s).encPos = s.encPos := rfl
@[simp] theorem offerByte_hostRx (b : Byte) (s : State) : (offerByte b s).hostRx = s.hostRx := rfl
@[simp] theorem offerByte_txReady (b : Byte) (s : State) : (offerByte b s).txReady = s.txReady := rfl
@[simp] theorem offerByte_rst (b : Byte) (s : State) : (offerByte b s).rst = s.rst := rfl
@[simp] theorem offerByte_chain (b : Byte) (s : State) : (offerByte b s).chain = s.chain := rfl
@[simp] theorem offerByte_mem (b : Byte) (s : State) : (offerByte b s).mem = s.mem := rfl
@[simp] theorem offerByte_cfg (b : Byte) (s : State) : (offerByte b s).cfg = s.cfg := rfl
@[simp] theorem offerByte_draws (b : Byte) (s : State) : (offerByte b s).draws = s.draws := rfl
@[simp] theorem offerByte_trace (b : Byte) (s : State) : (offerByte b s).trace = s.trace := rfl

/-! ### byteTaken -/

@[simp] theorem byteTaken_ctl (s : State) : (byteTaken s).ctl = s.ctl := rfl
@[simp] theorem byteTaken_mode (s : State) : (byteTaken s).mode = s.mode := rfl
@[simp] theorem byteTaken_startAddr (s : State) : (byteTaken s).startAddr = s.startAddr := rfl
@[simp] theorem byteTaken_endAddr (s : State) : (byteTaken s).endAddr = s.endAddr := rfl
@[simp] theorem byteTaken_idx (s : State) : (byteTaken s).idx = s.idx := rfl
@[simp] theorem byteTaken_op (s : State) : (byteTaken s).op = s.op := rfl
@[simp] theorem byteTaken_tok0 (s : State) : (byteTaken s).tok0 = s.tok0 := rfl
@[simp] theorem byteTaken_tok1 (s : State) : (byteTaken s).tok1 = s.tok1 := rfl
@[simp] theorem byteTaken_data (s : State) : (byteTaken s).data = s.data := rfl
@[simp] theorem byteTaken_cause (s : State) : (byteTaken s).cause = s.cause := rfl
@[simp] theorem byteTaken_causeVal (s : State) : (byteTaken s).causeVal = s.causeVal := rfl
@[simp] theorem byteTaken_rxReady (s : State) : (byteTaken s).rxReady = s.rxReady := rfl
@[simp] theorem byteTaken_txValid (s : State) : (byteTaken s).txValid = false := rfl
@[simp] theorem byteTaken_txData (s : State) : (byteTaken s).txData = s.txData := rfl
@[simp] theorem byteTaken_srData (s : State) : (byteTaken s).srData = s.srData := rfl
@[simp] theorem byteTaken_srClk (s : State) : (byteTaken s).srClk = s.srClk := rfl
@[simp] theorem byteTaken_oeAct (s : State) : (byteTaken s).oeAct = s.oeAct := rfl
@[simp] theorem byteTaken_weAct (s : State) : (byteTaken s).weAct = s.weAct := rfl
@[simp] theorem byteTaken_dOe (s : State) : (byteTaken s).dOe = s.dOe := rfl
@[simp] theorem byteTaken_dOut (s : State) : (byteTaken s).dOut = s.dOut := rfl
@[simp] theorem byteTaken_serAddr (s : State) : (byteTaken s).serAddr = s.serAddr := rfl
@[simp] theorem byteTaken_serBit (s : State) : (byteTaken s).serBit = s.serBit := rfl
@[simp] theorem byteTaken_serPhase (s : State) : (byteTaken s).serPhase = s.serPhase := rfl
@[simp] theorem byteTaken_busPhase (s : State) : (byteTaken s).busPhase = s.busPhase := rfl
@[simp] theorem byteTaken_dly (s : State) : (byteTaken s).dly = s.dly := rfl
@[simp] theorem byteTaken_encFrame (s : State) : (byteTaken s).encFrame = s.encFrame := rfl
@[simp] theorem byteTaken_encPos (s : State) : (byteTaken s).encPos = s.encPos := rfl
@[simp] theorem byteTaken_hostRx (s : State) : (byteTaken s).hostRx = s.hostRx := rfl
@[simp] theorem byteTaken_txReady (s : State) : (byteTaken s).txReady = s.txReady := rfl
@[simp] theorem byteTaken_rst (s : State) : (byteTaken s).rst = s.rst := rfl
@[simp] theorem byteTaken_chain (s : State) : (byteTaken s).chain = s.chain := rfl
@[simp] theorem byteTaken_mem (s : State) : (byteTaken s).mem = s.mem := rfl
@[simp] theorem byteTaken_cfg (s : State) : (byteTaken s).cfg = s.cfg := rfl
@[simp] theorem byteTaken_draws (s : State) : (byteTaken s).draws = s.draws := rfl
@[simp] theorem byteTaken_trace (s : State) : (byteTaken s).trace = s.trace ++ [.tx s.txData] := rfl

/-! ### resetEdge -/

@[simp] theorem resetEdge_ctl (s : State) : (resetEdge s).ctl = State.reset.ctl := rfl
@[simp] theorem resetEdge_mode (s : State) : (resetEdge s).mode = State.reset.mode := rfl
@[simp] theorem resetEdge_startAddr (s : State) : (resetEdge s).startAddr = State.reset.startAddr := rfl
@[simp] theorem resetEdge_endAddr (s : State) : (resetEdge s).endAddr = State.reset.endAddr := rfl
@[simp] theorem resetEdge_idx (s : State) : (resetEdge s).idx = State.reset.idx := rfl
@[simp] theorem resetEdge_op (s : State) : (resetEdge s).op = State.reset.op := rfl
@[simp] theorem resetEdge_tok0 (s : State) : (resetEdge s).tok0 = State.reset.tok0 := rfl
@[simp] theorem resetEdge_tok1 (s : State) : (resetEdge s).tok1 = State.reset.tok1 := rfl
@[simp] theorem resetEdge_data (s : State) : (resetEdge s).data = State.reset.data := rfl
@[simp] theorem resetEdge_cause (s : State) : (resetEdge s).cause = State.reset.cause := rfl
@[simp] theorem resetEdge_causeVal (s : State) : (resetEdge s).causeVal = State.reset.causeVal := rfl
@[simp] theorem resetEdge_rxReady (s : State) : (resetEdge s).rxReady = State.reset.rxReady := rfl
@[simp] theorem resetEdge_txValid (s : State) : (resetEdge s).txValid = State.reset.txValid := rfl
@[simp] theorem resetEdge_txData (s : State) : (resetEdge s).txData = State.reset.txData := rfl
@[simp] theorem resetEdge_srData (s : State) : (resetEdge s).srData = State.reset.srData := rfl
@[simp] theorem resetEdge_srClk (s : State) : (resetEdge s).srClk = State.reset.srClk := rfl
@[simp] theorem resetEdge_oeAct (s : State) : (resetEdge s).oeAct = State.reset.oeAct := rfl
@[simp] theorem resetEdge_weAct (s : State) : (resetEdge s).weAct = State.reset.weAct := rfl
@[simp] theorem resetEdge_dOe (s : State) : (resetEdge s).dOe = State.reset.dOe := rfl
@[simp] theorem resetEdge_dOut (s : State) : (resetEdge s).dOut = State.reset.dOut := rfl
@[simp] theorem resetEdge_serAddr (s : State) : (resetEdge s).serAddr = State.reset.serAddr := rfl
@[simp] theorem resetEdge_serBit (s : State) : (resetEdge s).serBit = State.reset.serBit := rfl
@[simp] theorem resetEdge_serPhase (s : State) : (resetEdge s).serPhase = State.reset.serPhase := rfl
@[simp] theorem resetEdge_busPhase (s : State) : (resetEdge s).busPhase = State.reset.busPhase := rfl
@[simp] theorem resetEdge_dly (s : State) : (resetEdge s).dly = State.reset.dly := rfl
@[simp] theorem resetEdge_encFrame (s : State) : (resetEdge s).encFrame = State.reset.encFrame := rfl
@[simp] theorem resetEdge_encPos (s : State) : (resetEdge s).encPos = State.reset.encPos := rfl
@[simp] theorem resetEdge_hostRx (s : State) : (resetEdge s).hostRx = s.hostRx := rfl
@[simp] theorem resetEdge_txReady (s : State) : (resetEdge s).txReady = s.txReady := rfl
@[simp] theorem resetEdge_rst (s : State) : (resetEdge s).rst = s.rst := rfl
@[simp] theorem resetEdge_chain (s : State) : (resetEdge s).chain = s.chain := rfl
@[simp] theorem resetEdge_mem (s : State) : (resetEdge s).mem = if s.weAct then memWrite s.mem (chipAddr s) (Config.cutByte s.draws) else s.mem := rfl
@[simp] theorem resetEdge_cfg (s : State) : (resetEdge s).cfg = s.cfg := rfl
@[simp] theorem resetEdge_draws (s : State) : (resetEdge s).draws = if s.weAct then s.draws + 1 else s.draws := rfl
@[simp] theorem resetEdge_trace (s : State) : (resetEdge s).trace = s.trace ++ resetEvents s := rfl

/-! ### SERIALIZE -/

/-- SERIALIZE moves only the two serial lines, and with them the chain (40_address_serializer.md R130). -/
theorem shiftBits_frame (a : Addr) (k : Nat) (s : State) :
    ∃ d c ch t, shiftBits a k s = { s with srData := d, srClk := c, chain := ch, trace := t } := by
  induction k generalizing s with
  | zero => exact ⟨_, _, _, _, rfl⟩
  | succ k ih =>
    obtain ⟨d, c, ch, t, h⟩ := ih (shiftBit (a.getLsbD k) s)
    exact ⟨d, c, ch, t, h⟩

@[simp] theorem shiftBits_ctl (a : Addr) (k : Nat) (s : State) : (shiftBits a k s).ctl = s.ctl := by
  obtain ⟨_, _, _, _, h⟩ := shiftBits_frame a k s; rw [h]
@[simp] theorem shiftBits_mode (a : Addr) (k : Nat) (s : State) : (shiftBits a k s).mode = s.mode := by
  obtain ⟨_, _, _, _, h⟩ := shiftBits_frame a k s; rw [h]
@[simp] theorem shiftBits_startAddr (a : Addr) (k : Nat) (s : State) : (shiftBits a k s).startAddr = s.startAddr := by
  obtain ⟨_, _, _, _, h⟩ := shiftBits_frame a k s; rw [h]
@[simp] theorem shiftBits_endAddr (a : Addr) (k : Nat) (s : State) : (shiftBits a k s).endAddr = s.endAddr := by
  obtain ⟨_, _, _, _, h⟩ := shiftBits_frame a k s; rw [h]
@[simp] theorem shiftBits_idx (a : Addr) (k : Nat) (s : State) : (shiftBits a k s).idx = s.idx := by
  obtain ⟨_, _, _, _, h⟩ := shiftBits_frame a k s; rw [h]
@[simp] theorem shiftBits_op (a : Addr) (k : Nat) (s : State) : (shiftBits a k s).op = s.op := by
  obtain ⟨_, _, _, _, h⟩ := shiftBits_frame a k s; rw [h]
@[simp] theorem shiftBits_tok0 (a : Addr) (k : Nat) (s : State) : (shiftBits a k s).tok0 = s.tok0 := by
  obtain ⟨_, _, _, _, h⟩ := shiftBits_frame a k s; rw [h]
@[simp] theorem shiftBits_tok1 (a : Addr) (k : Nat) (s : State) : (shiftBits a k s).tok1 = s.tok1 := by
  obtain ⟨_, _, _, _, h⟩ := shiftBits_frame a k s; rw [h]
@[simp] theorem shiftBits_data (a : Addr) (k : Nat) (s : State) : (shiftBits a k s).data = s.data := by
  obtain ⟨_, _, _, _, h⟩ := shiftBits_frame a k s; rw [h]
@[simp] theorem shiftBits_cause (a : Addr) (k : Nat) (s : State) : (shiftBits a k s).cause = s.cause := by
  obtain ⟨_, _, _, _, h⟩ := shiftBits_frame a k s; rw [h]
@[simp] theorem shiftBits_causeVal (a : Addr) (k : Nat) (s : State) : (shiftBits a k s).causeVal = s.causeVal := by
  obtain ⟨_, _, _, _, h⟩ := shiftBits_frame a k s; rw [h]
@[simp] theorem shiftBits_rxReady (a : Addr) (k : Nat) (s : State) : (shiftBits a k s).rxReady = s.rxReady := by
  obtain ⟨_, _, _, _, h⟩ := shiftBits_frame a k s; rw [h]
@[simp] theorem shiftBits_txValid (a : Addr) (k : Nat) (s : State) : (shiftBits a k s).txValid = s.txValid := by
  obtain ⟨_, _, _, _, h⟩ := shiftBits_frame a k s; rw [h]
@[simp] theorem shiftBits_txData (a : Addr) (k : Nat) (s : State) : (shiftBits a k s).txData = s.txData := by
  obtain ⟨_, _, _, _, h⟩ := shiftBits_frame a k s; rw [h]
@[simp] theorem shiftBits_oeAct (a : Addr) (k : Nat) (s : State) : (shiftBits a k s).oeAct = s.oeAct := by
  obtain ⟨_, _, _, _, h⟩ := shiftBits_frame a k s; rw [h]
@[simp] theorem shiftBits_weAct (a : Addr) (k : Nat) (s : State) : (shiftBits a k s).weAct = s.weAct := by
  obtain ⟨_, _, _, _, h⟩ := shiftBits_frame a k s; rw [h]
@[simp] theorem shiftBits_dOe (a : Addr) (k : Nat) (s : State) : (shiftBits a k s).dOe = s.dOe := by
  obtain ⟨_, _, _, _, h⟩ := shiftBits_frame a k s; rw [h]
@[simp] theorem shiftBits_dOut (a : Addr) (k : Nat) (s : State) : (shiftBits a k s).dOut = s.dOut := by
  obtain ⟨_, _, _, _, h⟩ := shiftBits_frame a k s; rw [h]
@[simp] theorem shiftBits_serAddr (a : Addr) (k : Nat) (s : State) : (shiftBits a k s).serAddr = s.serAddr := by
  obtain ⟨_, _, _, _, h⟩ := shiftBits_frame a k s; rw [h]
@[simp] theorem shiftBits_serBit (a : Addr) (k : Nat) (s : State) : (shiftBits a k s).serBit = s.serBit := by
  obtain ⟨_, _, _, _, h⟩ := shiftBits_frame a k s; rw [h]
@[simp] theorem shiftBits_serPhase (a : Addr) (k : Nat) (s : State) : (shiftBits a k s).serPhase = s.serPhase := by
  obtain ⟨_, _, _, _, h⟩ := shiftBits_frame a k s; rw [h]
@[simp] theorem shiftBits_busPhase (a : Addr) (k : Nat) (s : State) : (shiftBits a k s).busPhase = s.busPhase := by
  obtain ⟨_, _, _, _, h⟩ := shiftBits_frame a k s; rw [h]
@[simp] theorem shiftBits_dly (a : Addr) (k : Nat) (s : State) : (shiftBits a k s).dly = s.dly := by
  obtain ⟨_, _, _, _, h⟩ := shiftBits_frame a k s; rw [h]
@[simp] theorem shiftBits_encFrame (a : Addr) (k : Nat) (s : State) : (shiftBits a k s).encFrame = s.encFrame := by
  obtain ⟨_, _, _, _, h⟩ := shiftBits_frame a k s; rw [h]
@[simp] theorem shiftBits_encPos (a : Addr) (k : Nat) (s : State) : (shiftBits a k s).encPos = s.encPos := by
  obtain ⟨_, _, _, _, h⟩ := shiftBits_frame a k s; rw [h]
@[simp] theorem shiftBits_hostRx (a : Addr) (k : Nat) (s : State) : (shiftBits a k s).hostRx = s.hostRx := by
  obtain ⟨_, _, _, _, h⟩ := shiftBits_frame a k s; rw [h]
@[simp] theorem shiftBits_txReady (a : Addr) (k : Nat) (s : State) : (shiftBits a k s).txReady = s.txReady := by
  obtain ⟨_, _, _, _, h⟩ := shiftBits_frame a k s; rw [h]
@[simp] theorem shiftBits_rst (a : Addr) (k : Nat) (s : State) : (shiftBits a k s).rst = s.rst := by
  obtain ⟨_, _, _, _, h⟩ := shiftBits_frame a k s; rw [h]
@[simp] theorem shiftBits_mem (a : Addr) (k : Nat) (s : State) : (shiftBits a k s).mem = s.mem := by
  obtain ⟨_, _, _, _, h⟩ := shiftBits_frame a k s; rw [h]
@[simp] theorem shiftBits_cfg (a : Addr) (k : Nat) (s : State) : (shiftBits a k s).cfg = s.cfg := by
  obtain ⟨_, _, _, _, h⟩ := shiftBits_frame a k s; rw [h]
@[simp] theorem shiftBits_draws (a : Addr) (k : Nat) (s : State) : (shiftBits a k s).draws = s.draws := by
  obtain ⟨_, _, _, _, h⟩ := shiftBits_frame a k s; rw [h]

@[simp] theorem serialize_ctl (a : Addr) (s : State) : (serialize a s).ctl = s.ctl := by
  simp [serialize]
@[simp] theorem serialize_mode (a : Addr) (s : State) : (serialize a s).mode = s.mode := by
  simp [serialize]
@[simp] theorem serialize_startAddr (a : Addr) (s : State) : (serialize a s).startAddr = s.startAddr := by
  simp [serialize]
@[simp] theorem serialize_endAddr (a : Addr) (s : State) : (serialize a s).endAddr = s.endAddr := by
  simp [serialize]
@[simp] theorem serialize_idx (a : Addr) (s : State) : (serialize a s).idx = s.idx := by
  simp [serialize]
@[simp] theorem serialize_op (a : Addr) (s : State) : (serialize a s).op = s.op := by
  simp [serialize]
@[simp] theorem serialize_tok0 (a : Addr) (s : State) : (serialize a s).tok0 = s.tok0 := by
  simp [serialize]
@[simp] theorem serialize_tok1 (a : Addr) (s : State) : (serialize a s).tok1 = s.tok1 := by
  simp [serialize]
@[simp] theorem serialize_data (a : Addr) (s : State) : (serialize a s).data = s.data := by
  simp [serialize]
@[simp] theorem serialize_cause (a : Addr) (s : State) : (serialize a s).cause = s.cause := by
  simp [serialize]
@[simp] theorem serialize_causeVal (a : Addr) (s : State) : (serialize a s).causeVal = s.causeVal := by
  simp [serialize]
@[simp] theorem serialize_rxReady (a : Addr) (s : State) : (serialize a s).rxReady = s.rxReady := by
  simp [serialize]
@[simp] theorem serialize_txValid (a : Addr) (s : State) : (serialize a s).txValid = s.txValid := by
  simp [serialize]
@[simp] theorem serialize_txData (a : Addr) (s : State) : (serialize a s).txData = s.txData := by
  simp [serialize]
@[simp] theorem serialize_oeAct (a : Addr) (s : State) : (serialize a s).oeAct = s.oeAct := by
  simp [serialize]
@[simp] theorem serialize_weAct (a : Addr) (s : State) : (serialize a s).weAct = s.weAct := by
  simp [serialize]
@[simp] theorem serialize_dOe (a : Addr) (s : State) : (serialize a s).dOe = s.dOe := by
  simp [serialize]
@[simp] theorem serialize_dOut (a : Addr) (s : State) : (serialize a s).dOut = s.dOut := by
  simp [serialize]
@[simp] theorem serialize_serAddr (a : Addr) (s : State) : (serialize a s).serAddr = a := by
  simp [serialize]
@[simp] theorem serialize_serBit (a : Addr) (s : State) : (serialize a s).serBit = 0 := by
  simp [serialize]
@[simp] theorem serialize_serPhase (a : Addr) (s : State) : (serialize a s).serPhase = .idle := by
  simp [serialize]
@[simp] theorem serialize_busPhase (a : Addr) (s : State) : (serialize a s).busPhase = s.busPhase := by
  simp [serialize]
@[simp] theorem serialize_dly (a : Addr) (s : State) : (serialize a s).dly = 0 := by
  simp [serialize]
@[simp] theorem serialize_encFrame (a : Addr) (s : State) : (serialize a s).encFrame = s.encFrame := by
  simp [serialize]
@[simp] theorem serialize_encPos (a : Addr) (s : State) : (serialize a s).encPos = s.encPos := by
  simp [serialize]
@[simp] theorem serialize_hostRx (a : Addr) (s : State) : (serialize a s).hostRx = s.hostRx := by
  simp [serialize]
@[simp] theorem serialize_txReady (a : Addr) (s : State) : (serialize a s).txReady = s.txReady := by
  simp [serialize]
@[simp] theorem serialize_rst (a : Addr) (s : State) : (serialize a s).rst = s.rst := by
  simp [serialize]
@[simp] theorem serialize_mem (a : Addr) (s : State) : (serialize a s).mem = s.mem := by
  simp [serialize]
@[simp] theorem serialize_cfg (a : Addr) (s : State) : (serialize a s).cfg = s.cfg := by
  simp [serialize]
@[simp] theorem serialize_draws (a : Addr) (s : State) : (serialize a s).draws = s.draws := by
  simp [serialize]

end Sys2Proof.Machine
end

