-- ==== Sys2Proof/Laws/Ops.lean ====
section
/-! SUPPORT. What each shared operation can do, said once. -/

namespace Sys2Proof.Machine

open Sys2Proof.Safety

/-! ## Sequencing -/

@[simp] theorem go_andThen (s : State) (k : State → Flow) : (Flow.go s).andThen k = k s := rfl
@[simp] theorem stop_andThen (s : State) (k : State → Flow) : (Flow.stop s).andThen k = .stop s := rfl
@[simp] theorem fault_andThen (f : Fault) (k : State → Flow) : (Flow.fault f).andThen k = .fault f := rfl
@[simp] theorem outcome_go (s : State) : (Flow.go s).outcome = .next s := rfl
@[simp] theorem outcome_stop (s : State) : (Flow.stop s).outcome = .next s := rfl
@[simp] theorem outcome_fault (f : Fault) : (Flow.fault f).outcome = .fault f := rfl

theorem andThen_assoc (x : Flow) (f g : State → Flow) :
    (x.andThen f).andThen g = x.andThen fun s => (f s).andThen g := by
  cases x <;> rfl

/-! ## Pins -/

@[simp] theorem pinEvent_true (p : PinChange) : pinEvent true p = [.pin p] := rfl
@[simp] theorem pinEvent_false (p : PinChange) : pinEvent false p = [] := rfl

/-- A mode entry with both enables inactive changes only the direction and the mode
(41_bus_mode_controller.md R152 to R154). -/
theorem enterMode_of_inactive (m : BitVec 2) (d : Bool) {s : State} (ho : s.oeAct = false) (hw : s.weAct = false) :
    enterMode m d s =
      { s with mode := m, dOe := d, trace := s.trace ++ pinEvent (s.dOe != d) (.dOe d) } := by
  cases s
  simp_all [enterMode, setDOe, setOeAct, setWeAct]

/-! ## Host streams -/

/-- `RxByte()` with a byte waiting. -/
theorem rxByte_cons (store : Byte → State → State) {s : State} {b : Byte} {q : List Byte} (h : s.hostRx = b :: q) :
    rxByte store s = .go (store b (acceptByte b q s)) := by
  simp [rxByte, h]

/-- `RxByte()` with nothing offered waits (70_reset_and_hazards.md R354). -/
theorem rxByte_nil (store : Byte → State → State) {s : State} (h : s.hostRx = []) :
    rxByte store s = .stop { s with rxReady := true } := by
  simp [rxByte, h]

/-- `TxByte(b)` with the sink ready. -/
theorem txByte_ready (b : Byte) {s : State} (h : s.txReady = true) :
    txByte b s = .go { s with txData := b, txValid := false, trace := s.trace ++ [.tx b] } := by
  simp [txByte, h, byteTaken, offerByte]

/-- `TxByte(b)` with the sink not ready waits (70_reset_and_hazards.md R354). -/
theorem txByte_wait (b : Byte) {s : State} (h : s.txReady = false) :
    txByte b s = .stop { s with txData := b, txValid := true } := by
  simp [txByte, h, offerByte]

/-! ## Response frames -/

/-- The state after the bytes `bs` of a frame have been accepted. -/
def emitted (bs : List Byte) (s : State) : State :=
  { s with
    encFrame := none
    encPos := 0
    txValid := if bs = [] then s.txValid else false
    txData := bs.getLastD s.txData
    trace := s.trace ++ bs.map Event.tx }

/-- The rest of a frame with the sink ready: all its bytes are sent (45_response_encoder.md R260). -/
theorem emitFrom_ready (f : FrameKind) (pos : Nat) (bs : List Byte) {s : State} (h : s.txReady = true) :
    emitFrom f pos bs s = .go (emitted bs s) := by
  induction bs generalizing pos s with
  | nil => simp [emitFrom, emitted]
  | cons b bs ih =>
    rw [emitFrom, txByte_ready b (by simpa using h), go_andThen, ih _ (by simpa using h)]
    cases bs with
    | nil => simp [emitted]
    | cons c bs => simp [emitted, List.getLast?_cons]

theorem frameBytes_ne_nil (f : FrameKind) (s : State) : frameBytes f s ≠ [] := by
  cases f <;> simp [frameBytes]

/-- A frame with the sink ready (45_response_encoder.md R261 to R263). -/
theorem emit_ready (f : FrameKind) {s : State} (h : s.txReady = true) :
    emit f s = .go (emitted (frameBytes f s) s) := emitFrom_ready f 0 _ h

/-- A frame with the sink not ready: its first byte is offered and nothing is sent. -/
theorem emit_wait (f : FrameKind) {s : State} (h : s.txReady = false) :
    emit f s = .stop (startFrame f s) := by
  unfold emit startFrame
  cases hb : frameBytes f s with
  | nil => exact absurd hb (frameBytes_ne_nil f s)
  | cons b bs => simp [emitFrom, txByte, h, offerByte]

/-! ## SERIALIZE -/

/-- One bit of SERIALIZE from a low clock (40_address_serializer.md R131). -/
theorem shiftBit_eq (b : Bool) {s : State} (h : s.srClk = false) :
    shiftBit b s =
      { s with
        srData := b
        srClk := false
        chain := shiftChain s.chain b
        trace := s.trace ++ pinEvent (s.srData != b) (.srData b) ++ [.pin (.srClk true), .pin (.srClk false)] } := by
  simp [shiftBit, setSrClk, setSrData, h]

/-- The chain after bits `k - 1` down to 0 of `a`. -/
def chainAfter (a : Addr) : Nat → BitVec 24 → BitVec 24
  | 0, c => c
  | k + 1, c => chainAfter a k (shiftChain c (a.getLsbD k))

theorem getLsbD_shiftChain (c : BitVec 24) (b : Bool) (j : Nat) (hj : j < 24) :
    (shiftChain c b).getLsbD j = if j = 0 then b else c.getLsbD (j - 1) := by
  unfold shiftChain
  rw [BitVec.getLsbD_append]
  by_cases h : j = 0
  · simp [h]
  · have h1 : ¬ j < 1 := by omega
    have h2 : j - 1 < 23 := by omega
    simp [h, h1, h2]

theorem getLsbD_chainAfter (a : Addr) (k : Nat) (hk : k ≤ 24) (c : BitVec 24) (j : Nat) (hj : j < 24) :
    (chainAfter a k c).getLsbD j = if j < k then a.getLsbD j else c.getLsbD (j - k) := by
  induction k generalizing c with
  | zero => simp [chainAfter]
  | succ k ih =>
    rw [chainAfter, ih (by omega)]
    by_cases h1 : j < k
    · simp [h1, show j < k + 1 by omega]
    · rw [if_neg h1, getLsbD_shiftChain _ _ _ (by omega)]
      by_cases h2 : j = k
      · subst h2; simp
      · have h3 : ¬ j < k + 1 := by omega
        have h4 : j - k ≠ 0 := by omega
        simp [h3, h4, Nat.sub_sub]

/-- 24 shifts load the whole chain, whatever it held (40_address_serializer.md R133). -/
theorem chainAfter_all (a : Addr) (c : BitVec 24) : chainAfter a 24 c = a := by
  apply BitVec.eq_of_getLsbD_eq
  intro j hj
  rw [getLsbD_chainAfter a 24 le_rfl c j hj, if_pos hj]

/-- Bits `k - 1` down to 0 of SERIALIZE from a low clock. -/
theorem shiftBits_eq (a : Addr) (k : Nat) {s : State} (h : s.srClk = false) :
    shiftBits a k s =
      { s with
        srData := if k = 0 then s.srData else a.getLsbD 0
        srClk := false
        chain := chainAfter a k s.chain
        trace := s.trace ++ serializeEventsFrom a k s.srData } := by
  induction k generalizing s with
  | zero => cases s; simp_all [shiftBits, chainAfter, serializeEventsFrom]
  | succ k ih =>
    rw [shiftBits, shiftBit_eq _ h, ih rfl]
    cases k <;> simp [chainAfter, serializeEventsFrom]

/-- SERIALIZE(a) from a low clock (40_address_serializer.md R131, R132, R133). -/
theorem serialize_eq (a : Addr) {s : State} (h : s.srClk = false) :
    serialize a s =
      { s with
        serAddr := a
        serBit := 0
        serPhase := .idle
        dly := 0
        srData := a.getLsbD 0
        srClk := false
        chain := a
        trace := s.trace ++ serializeEvents s.srData a } := by
  rw [serialize, shiftBits_eq a _ (by simpa using h)]
  simp [Config.serBits, chainAfter_all, serializeEvents]

/-! ## Bus transactions -/

/-- The byte a READ_BYTE(a) samples (20_memory.md R70; 10_state.md R34). -/
def readByteValue (a : Addr) (s : State) : Byte :=
  if s.cfg.chip = .reference ∧ s.dOe = false then memRead s.mem (a.extractLsb' 0 17).toNat
  else Config.drawnByte s.draws

/-- READ_BYTE in mode READ with the enables inactive (41_bus_mode_controller.md R156, R157). -/
theorem readByte_eq (a : Addr) {s : State} (hm : s.mode = modeRead) (hc : s.srClk = false) (ho : s.oeAct = false) :
    readByte a s =
      .go { s with
        serAddr := a
        serBit := 0
        serPhase := .idle
        busPhase := .idle
        dly := 0
        srData := a.getLsbD 0
        srClk := false
        oeAct := false
        chain := a
        data := readByteValue a s
        draws := if s.cfg.chip = .reference ∧ s.dOe = false then s.draws else s.draws + 1
        trace := s.trace ++ readByteEvents s.srData a (readByteValue a s) } := by
  rw [readByte, if_pos hm, serialize_eq a hc]
  cases hd : s.dOe <;> cases hr : s.cfg.chip <;>
    simp [setOeAct, sample, dataLines, chipDrives, chipAddr, readByteValue, readByteEvents, ho, hd, hr]

/-- WRITE_BYTE in mode WRITE, the CORE driving the data lines (41_bus_mode_controller.md R158, R159; 20_memory.md
R70). -/
theorem writeByte_eq (a : Addr) (v : Byte) {s : State} (hm : s.mode = modeWrite) (hc : s.srClk = false)
    (hw : s.weAct = false) (hd : s.dOe = true) :
    writeByte a v s =
      .go { s with
        serAddr := a
        serBit := 0
        serPhase := .idle
        busPhase := .idle
        dly := 0
        srData := a.getLsbD 0
        srClk := false
        weAct := false
        dOut := v
        chain := a
        mem := memWrite s.mem (a.extractLsb' 0 17).toNat v
        trace := s.trace ++ writeByteEvents s.srData a s.dOut v } := by
  rw [writeByte, if_pos hm, serialize_eq a hc]
  simp [setWeAct, setDOut, chipAddr, writeByteEvents, hw, hd]

/-- READ_BYTE outside READ faults (41_bus_mode_controller.md R160). -/
theorem readByte_fault (a : Addr) {s : State} (hm : s.mode ≠ modeRead) :
    readByte a s = .fault .readOutsideReadMode := by simp [readByte, hm]

/-- WRITE_BYTE outside WRITE faults (41_bus_mode_controller.md R160). -/
theorem writeByte_fault (a : Addr) (v : Byte) {s : State} (hm : s.mode ≠ modeWrite) :
    writeByte a v s = .fault .writeOutsideWriteMode := by simp [writeByte, hm]

/-! ## Validation -/

/-- VALIDATE passes exactly the valid ranges (42_command_framer.md R188). -/
theorem validate_eq_none (a b : Addr) : validate a b = none ↔ validRange a b := by
  unfold validate validRange
  split_ifs <;> simp <;> omega

/-- What a failed VALIDATE reports (42_command_framer.md R188, R189). -/
theorem validate_eq_some {a b : Addr} {c : Cause} {v : Option Addr} (h : validate a b = some (c, v)) :
    (c = .startOob ∧ v = some a ∧ Config.memSize ≤ a.toNat) ∨
    (c = .endOob ∧ v = some b ∧ a.toNat < Config.memSize ∧ Config.memSize < b.toNat) ∨
    (c = .rangeOrder ∧ v = none ∧ a.toNat < Config.memSize ∧ b.toNat ≤ Config.memSize ∧ b.toNat ≤ a.toNat) := by
  unfold validate at h
  by_cases h1 : a.toNat < Config.memSize
  · by_cases h2 : b.toNat ≤ Config.memSize
    · by_cases h3 : a.toNat < b.toNat
      · simp [h1, h2, h3] at h
      · simp [h1, h2, h3] at h
        exact .inr (.inr ⟨h.1.symm, h.2.symm, h1, h2, by omega⟩)
    · simp [h1, h2] at h
      exact .inr (.inl ⟨h.1.symm, h.2.symm, h1, by omega⟩)
  · simp [h1] at h
    exact .inl ⟨h.1.symm, h.2.symm, by omega⟩

/-! ## The abort procedure -/

/-- An abort with the sink ready: one error frame, then the sync scan (60_exceptions.md R307). -/
theorem raiseAbort_ready (c : Cause) (v : Option Addr) {s : State} (h : s.txReady = true) :
    raiseAbort c v s =
      .stop (abortReturn (emitted (frameBytes .ng (beginAbort c v s)) (beginAbort c v s))) := by
  rw [raiseAbort, emit_ready _ (by simpa [beginAbort] using h), go_andThen]

/-- An abort with the sink not ready waits with the frame's first byte offered. -/
theorem raiseAbort_wait (c : Cause) (v : Option Addr) {s : State} (h : s.txReady = false) :
    raiseAbort c v s = .stop (startFrame .ng (beginAbort c v s)) := by
  rw [raiseAbort, emit_wait _ (by simpa [beginAbort] using h), stop_andThen]

end Sys2Proof.Machine
end

