-- ==== Sys2Proof/Laws/Clock.lean ====
section
/-! SUPPORT. The clocked controller against the shared operations: clock by clock it reaches what each operation
gives at once. -/

namespace Sys2Proof.Machine

/-- Some number of clock edges leads from `s` to `t`. -/
def Reaches (s t : State) : Prop := ∃ k, ticks k s = .go t

theorem Reaches.refl (s : State) : Reaches s s := ⟨0, rfl⟩

theorem Reaches.head {s t u : State} (h : tick s = .go t) (r : Reaches t u) : Reaches s u := by
  obtain ⟨k, hk⟩ := r
  exact ⟨k + 1, by rw [ticks, h, go_andThen, hk]⟩

theorem Reaches.one {s t : State} (h : tick s = .go t) : Reaches s t := .head h (.refl t)

theorem ticks_add (j k : Nat) (s : State) : ticks (j + k) s = (ticks j s).andThen (ticks k) := by
  induction j generalizing s with
  | zero => simp [ticks]
  | succ j ih =>
    rw [Nat.add_right_comm, ticks, ticks, andThen_assoc]
    congr 1
    funext t
    exact ih t

theorem Reaches.trans {s t u : State} (h : Reaches s t) (r : Reaches t u) : Reaches s u := by
  obtain ⟨j, hj⟩ := h
  obtain ⟨k, hk⟩ := r
  exact ⟨j + k, by rw [ticks_add, hj, go_andThen, hk]⟩

/-! ## Settle delays -/

/-- A settle delay ends, whatever its length, with the down-counter at 0 (10_state.md R33). -/
theorem reaches_settle (next : State → State) (s : State)
    (h : ∀ d, tick { s with dly := d } = .go (tickSettle next { s with dly := d })) :
    Reaches s (next { s with dly := 0 }) := by
  obtain ⟨d, hd⟩ : ∃ d, s.dly = d := ⟨_, rfl⟩
  have hs : s = { s with dly := d } := by rw [← hd]
  rw [hs]
  clear hd hs
  induction d with
  | zero => exact .one (by rw [h 0]; simp [tickSettle])
  | succ d ih => exact .head (by rw [h (d + 1)]; simp [tickSettle]) ih

/-! ## Host streams -/

/-- `RxByte()` clock by clock, with a byte waiting. -/
theorem reaches_rx (store : Byte → State → State) {s : State} {b : Byte} {q : List Byte}
    (h : ∀ t : State, t.ctl = s.ctl → tick t = .go (tickRx store t)) (hq : s.hostRx = b :: q) :
    Reaches s (store b (acceptByte b q s)) := by
  cases hr : s.rxReady with
  | true => exact .one (by rw [h s rfl]; simp [tickRx, hr, hq])
  | false =>
    have h1 : tick s = .go { s with rxReady := true } := by rw [h s rfl]; simp [tickRx, hr]
    refine .head h1 (.one ?_)
    rw [h _ (by rfl)]
    simp [tickRx, hq, acceptByte]

/-- `RxByte()` clock by clock: `rx_ready` is raised. -/
theorem reaches_rx_wait (store : Byte → State → State) {s : State}
    (h : ∀ t : State, t.ctl = s.ctl → tick t = .go (tickRx store t)) :
    Reaches s { s with rxReady := true } := by
  cases hr : s.rxReady with
  | true => simpa [← hr] using Reaches.refl s
  | false => exact .one (by rw [h s rfl]; simp [tickRx, hr])

/-- `TxByte(b)` clock by clock, the sink ready. -/
theorem reaches_tx (b : Byte) (next : State → State) {s : State}
    (h : ∀ t : State, t.ctl = s.ctl → tick t = .go (tickTx b next t)) (hv : s.txValid = false)
    (hr : s.txReady = true) :
    Reaches s (next (byteTaken (offerByte b s))) := by
  have h1 : tick s = .go (offerByte b s) := by rw [h s rfl]; simp [tickTx, hv]
  refine .head h1 (.one ?_)
  rw [h _ (by simp)]
  simp [tickTx, hr]

/-- `TxByte(b)` clock by clock: the byte is offered. -/
theorem reaches_tx_wait (b : Byte) (next : State → State) {s : State}
    (h : ∀ t : State, t.ctl = s.ctl → tick t = .go (tickTx b next t)) (hv : s.txValid = false) :
    Reaches s (offerByte b s) := .one (by rw [h s rfl]; simp [tickTx, hv])

theorem frameBytes_congr (f : FrameKind) {s t : State} (h1 : t.cfg = s.cfg) (h2 : t.cause = s.cause)
    (h3 : t.causeVal = s.causeVal) : frameBytes f t = frameBytes f s := by
  cases f <;> simp [frameBytes, h1, h2, h3]

/-- The rest of a frame whose next byte is offered. -/
theorem reaches_emit_from (f : FrameKind) (next : State → State) (pre : List Byte) (b : Byte) (bs : List Byte)
    {s : State} (h : ∀ t : State, t.ctl = s.ctl → tick t = .go (tickEmit f next t))
    (hv : s.txValid = true) (hr : s.txReady = true) (hd : s.txData = b) (hp : s.encPos = pre.length)
    (hb : frameBytes f s = pre ++ b :: bs) :
    Reaches s (next (emitted (b :: bs) s)) := by
  induction bs generalizing pre b s with
  | nil =>
    refine .one ?_
    rw [h s rfl]
    simp [tickEmit, hv, hr, hp, hb, emitted, byteTaken, hd]
  | cons c bs ih =>
    let t : State := offerByte c { byteTaken s with encFrame := some f, encPos := s.encPos + 1 }
    have ht : tick s = .go t := by
      rw [h s rfl]
      simp [tickEmit, hv, hr, hp, hb, t]
    have hlast : Reaches t (next (emitted (c :: bs) t)) := by
      refine ih (pre ++ [b]) c (s := t) (fun u hu => h u ?_) ?_ ?_ ?_ ?_ ?_
      · simpa [t] using hu
      · simp [t]
      · simpa [t] using hr
      · simp [t]
      · simp [t, hp]
      · rw [frameBytes_congr f (s := s) (by simp [t]) (by simp [t]) (by simp [t]), hb]; simp
    refine .head ht ?_
    have he : emitted (c :: bs) t = emitted (b :: c :: bs) s := by
      simp [emitted, t, offerByte, byteTaken, hd, List.getLast?_cons]
    rwa [he] at hlast

/-- A frame clock by clock, its first byte already offered. -/
theorem reaches_emit_started (f : FrameKind) (next : State → State) {s : State}
    (h : ∀ t : State, t.ctl = s.ctl → tick t = .go (tickEmit f next t)) (hr : s.txReady = true) :
    Reaches (startFrame f s) (next (emitted (frameBytes f s) s)) := by
  obtain ⟨b, bs, hb⟩ : ∃ b bs, frameBytes f s = b :: bs := List.exists_cons_of_ne_nil (frameBytes_ne_nil f s)
  have hf : frameBytes f (startFrame f s) = frameBytes f s :=
    frameBytes_congr f (by simp [startFrame]) (by simp [startFrame]) (by simp [startFrame])
  have := reaches_emit_from f next [] b bs (s := startFrame f s)
    (fun t ht => h t (by simpa [startFrame] using ht))
    (by simp [startFrame]) (by simpa [startFrame] using hr) (by simp [startFrame, hb]) (by simp [startFrame])
    (by rw [hf, hb]; rfl)
  have he : emitted (b :: bs) (startFrame f s) = emitted (frameBytes f s) s := by
    rw [hb]; simp [emitted, startFrame, offerByte, List.getLast?_cons]
  rwa [he] at this

/-- A frame clock by clock: its first byte is offered. -/
theorem reaches_emit_wait (f : FrameKind) (next : State → State) {s : State}
    (h : ∀ t : State, t.ctl = s.ctl → tick t = .go (tickEmit f next t)) (hv : s.txValid = false) :
    Reaches s (startFrame f s) := .one (by rw [h s rfl]; simp [tickEmit, hv])

/-- A frame clock by clock, the sink ready. -/
theorem reaches_emit (f : FrameKind) (next : State → State) {s : State}
    (h : ∀ t : State, t.ctl = s.ctl → tick t = .go (tickEmit f next t)) (hv : s.txValid = false)
    (hr : s.txReady = true) :
    Reaches s (next (emitted (frameBytes f s) s)) :=
  (reaches_emit_wait f next h hv).trans (reaches_emit_started f next h hr)

/-! ## SERIALIZE -/

/-- The end of a transaction's SERIALIZE, if it is over. -/
def addressDone (t : State) : State :=
  if t.serPhase = .idle then { t with busPhase := .settleAddr, dly := t.cfg.settleBus } else t

theorem tickAddress_eq (s : State) : tickAddress s = addressDone (tickSerialize s) := rfl

/-- One bit of SERIALIZE clock by clock (40_address_serializer.md R131). -/
theorem reaches_bit {s : State}
    (h : ∀ t : State, t.ctl = s.ctl → t.busPhase = .serialize → tick t = .go (tickAddress t))
    (hb : s.busPhase = .serialize) (hp : s.serPhase = .data) :
    Reaches s (addressDone (nextBit
      { shiftBit (s.serAddr.getLsbD s.serBit.val) s with serPhase := .settleFall, dly := 0 })) := by
  let b := s.serAddr.getLsbD s.serBit.val
  let s1 : State := { setSrData b s with dly := s.cfg.settleSr, serPhase := .settleData }
  let s2 : State := { s1 with dly := 0, serPhase := .rise }
  let s3 : State := { setSrClk true s2 with dly := s.cfg.settleSr, serPhase := .settleRise }
  let s4 : State := { s3 with dly := 0, serPhase := .fall }
  let s5 : State := { setSrClk false s4 with dly := s.cfg.settleSr, serPhase := .settleFall }
  have h1 : Reaches s s1 := .one (by rw [h s rfl hb, tickAddress_eq]; simp [tickSerialize, hp, addressDone, s1, b])
  have h2 : Reaches s1 s2 :=
    reaches_settle (fun s => { s with serPhase := .rise }) s1 fun d => by
      rw [h _ (by simp [s1]) (by simpa [s1] using hb), tickAddress_eq]
      by_cases hd : d = 0 <;> simp [tickSerialize, s1, tickSettle, addressDone, hd]
  have h3 : Reaches s2 s3 := .one (by
    rw [h _ (by simp [s2, s1]) (by simpa [s2, s1] using hb), tickAddress_eq]
    simp [tickSerialize, s2, s1, s3, addressDone])
  have h4 : Reaches s3 s4 :=
    reaches_settle (fun s => { s with serPhase := .fall }) s3 fun d => by
      rw [h _ (by simp [s3, s2, s1]) (by simpa [s3, s2, s1] using hb), tickAddress_eq]
      by_cases hd : d = 0 <;> simp [tickSerialize, s3, tickSettle, addressDone, hd]
  have h5 : Reaches s4 s5 := .one (by
    rw [h _ (by simp [s4, s3, s2, s1]) (by simpa [s4, s3, s2, s1] using hb), tickAddress_eq]
    simp [tickSerialize, s4, s3, s2, s1, s5, addressDone])
  have h6 : Reaches s5 (addressDone (nextBit { s5 with dly := 0 })) :=
    reaches_settle (fun s => addressDone (nextBit s)) s5 fun d => by
      rw [h _ (by simp [s5, s4, s3, s2, s1]) (by simpa [s5, s4, s3, s2, s1] using hb), tickAddress_eq]
      by_cases hd : d = 0 <;> simp [tickSerialize, s5, tickSettle, addressDone, hd]
  refine (h1.trans (h2.trans (h3.trans (h4.trans (h5.trans h6))))).trans ?_
  exact .refl _

theorem shiftBits_update (a : Addr) (k : Nat) (b : Fin 24) (p : SerPhase) (d : Nat) (s : State) :
    shiftBits a k { s with serBit := b, serPhase := p, dly := d } =
      { shiftBits a k s with serBit := b, serPhase := p, dly := d } := by
  induction k generalizing s with
  | zero => rfl
  | succ k ih => exact ih (shiftBit (a.getLsbD k) s)

/-- The bits from the current one down to 0, clock by clock, then the bus settle delay begins. -/
theorem reaches_bits (k : Nat) (hk : k < 24) {s : State}
    (h : ∀ t : State, t.ctl = s.ctl → t.busPhase = .serialize → tick t = .go (tickAddress t))
    (hb : s.busPhase = .serialize) (hp : s.serPhase = .data) (hs : s.serBit = ⟨k, hk⟩) :
    Reaches s { shiftBits s.serAddr (k + 1) s with
      serBit := 0, serPhase := .idle, busPhase := .settleAddr, dly := s.cfg.settleBus } := by
  induction k generalizing s with
  | zero =>
    have h0 : s.serBit = 0 := hs
    have he : addressDone (nextBit
        { shiftBit (s.serAddr.getLsbD s.serBit.val) s with serPhase := .settleFall, dly := 0 }) =
        { shiftBits s.serAddr 1 s with
          serBit := 0, serPhase := .idle, busPhase := .settleAddr, dly := s.cfg.settleBus } := by
      simp [nextBit, h0, addressDone, shiftBits, shiftBit]
    exact he ▸ reaches_bit h hb hp
  | succ k ih =>
    have hne : s.serBit ≠ 0 := by rw [hs]; simp [Fin.ext_iff]
    have hsub : (⟨k + 1, hk⟩ : Fin 24) - 1 = ⟨k, by omega⟩ := by
      ext; simp [Fin.sub_def]; omega
    have he : addressDone (nextBit
        { shiftBit (s.serAddr.getLsbD s.serBit.val) s with serPhase := .settleFall, dly := 0 }) =
        { shiftBit (s.serAddr.getLsbD (k + 1)) s with serBit := ⟨k, by omega⟩, serPhase := .data, dly := 0 } := by
      rw [hs] at hne
      simp [nextBit, addressDone, shiftBit, hne, hsub, hs]
    have hr := reaches_bit h hb hp
    rw [he] at hr
    refine hr.trans ?_
    have := ih (by omega)
      (s := { shiftBit (s.serAddr.getLsbD (k + 1)) s with serBit := ⟨k, by omega⟩, serPhase := .data, dly := 0 })
      (fun u hu => h u (by simpa [shiftBit] using hu)) (by simpa [shiftBit] using hb) rfl rfl
    rw [shiftBits_update] at this
    simpa [shiftBit, shiftBits] using this

/-- A transaction's SERIALIZE clock by clock (40_address_serializer.md R131): it ends where the bus settle delay
begins. -/
theorem reaches_serialize {s : State}
    (h : ∀ t : State, t.ctl = s.ctl → t.busPhase = .serialize → tick t = .go (tickAddress t)) :
    Reaches (startSerialize s)
      { serialize (byteAddr s) s with busPhase := .settleAddr, dly := s.cfg.settleBus } := by
  have := reaches_bits 23 (by omega) (s := startSerialize s) (fun t ht => h t (by simpa [startSerialize] using ht))
    rfl rfl rfl
  have he : ∀ (k : Nat) (t : State), shiftBits (byteAddr s) k { t with busPhase := .serialize } =
      { shiftBits (byteAddr s) k t with busPhase := .serialize } := by
    intro k
    induction k with
    | zero => intro t; rfl
    | succ k ih => intro t; exact ih (shiftBit _ t)
  have h2 : startSerialize s =
      { { ({ s with serAddr := byteAddr s } : State) with busPhase := .serialize } with
        serBit := 23, serPhase := .data, dly := s.dly } := rfl
  rw [h2] at this ⊢
  rw [shiftBits_update, he] at this
  exact this

/-! ## Bus transactions -/

/-- READ_BYTE clock by clock, after its SERIALIZE. -/
theorem reaches_readTail {u : State} (hu : u.ctl = .rRead) (d : Nat) :
    Reaches { u with busPhase := .settleAddr, dly := d }
      { setOeAct false (sample (setOeAct true u)) with busPhase := .idle, ctl := .rSend, dly := 0 } := by
  have hr : ∀ v : State, v.ctl = .rRead → tick v = tickRead v := fun v hv => by simp [tick, hv]
  let u1 : State := { u with busPhase := .settleAddr, dly := d }
  let u2 : State := { u1 with dly := 0, busPhase := .assertEnable }
  let u3 : State := { setOeAct true u2 with busPhase := .settleEnable, dly := u2.cfg.settleBus }
  let u4 : State := { u3 with dly := 0, busPhase := .sample }
  let u5 : State := { sample u4 with busPhase := .deassert }
  let u6 : State := { setOeAct false u5 with busPhase := .idle, ctl := .rSend }
  have e2 : Reaches u1 u2 :=
    reaches_settle (fun s => { s with busPhase := .assertEnable }) u1 fun d => by
      rw [hr _ (by exact hu)]; simp [tickRead, u1]
  have e3 : Reaches u2 u3 := .one (by rw [hr u2 hu]; simp [tickRead, u2, u3])
  have e4 : Reaches u3 u4 :=
    reaches_settle (fun s => { s with busPhase := .sample }) u3 fun d => by
      rw [hr _ (by exact hu)]; simp [tickRead, u3]
  have e5 : Reaches u4 u5 := .one (by rw [hr u4 hu]; simp [tickRead, u4, u5])
  have e6 : Reaches u5 u6 := .one (by rw [hr u5 hu]; simp [tickRead, u5, u6])
  exact e2.trans (e3.trans (e4.trans (e5.trans e6)))

/-- WRITE_BYTE clock by clock, after its SERIALIZE. -/
theorem reaches_writeTail {u : State} (hu : u.ctl = .wWrite) (d : Nat) :
    Reaches { u with busPhase := .settleAddr, dly := d }
      (writeHead { setWeAct false (setWeAct true (setDOut u.data u)) with
        busPhase := .idle, dly := 0, idx := u.idx + 1 }) := by
  have hr : ∀ v : State, v.ctl = .wWrite → tick v = tickWrite v := fun v hv => by simp [tick, hv]
  let u1 : State := { u with busPhase := .settleAddr, dly := d }
  let u2 : State := { u1 with dly := 0, busPhase := .drive }
  let u3 : State := { setDOut u2.data u2 with busPhase := .assertEnable }
  let u4 : State := { setWeAct true u3 with busPhase := .settleEnable, dly := u3.cfg.settleBus }
  let u5 : State := { u4 with dly := 0, busPhase := .deassert }
  let u6 : State := { setWeAct false u5 with busPhase := .settleHold, dly := u5.cfg.settleBus }
  let u7 : State := { u6 with dly := 0, busPhase := .idle, idx := u6.idx + 1 }
  have e2 : Reaches u1 u2 :=
    reaches_settle (fun s => { s with busPhase := .drive }) u1 fun d => by
      rw [hr _ (by exact hu)]; simp [tickWrite, u1]
  have e3 : Reaches u2 u3 := .one (by rw [hr u2 hu]; simp [tickWrite, u2, u3])
  have e4 : Reaches u3 u4 := .one (by rw [hr u3 hu]; simp [tickWrite, u3, u4])
  have e5 : Reaches u4 u5 :=
    reaches_settle (fun s => { s with busPhase := .deassert }) u4 fun d => by
      rw [hr _ (by exact hu)]; simp [tickWrite, u4]
  have e6 : Reaches u5 u6 := .one (by rw [hr u5 hu]; simp [tickWrite, u5, u6])
  have e7 : Reaches u6 (writeHead u7) :=
    reaches_settle (fun s => writeHead { s with busPhase := .idle, idx := s.idx + 1 }) u6 fun d => by
      rw [hr _ (by exact hu)]; simp [tickWrite, u6]
  exact e2.trans (e3.trans (e4.trans (e5.trans (e6.trans e7))))

/-- READ_BYTE clock by clock (41_bus_mode_controller.md R156). -/
theorem reaches_readByte {s t : State} (hc : s.ctl = .rRead) (hb : s.busPhase = .idle)
    (h : readByte (byteAddr s) s = .go t) : Reaches s { t with ctl := .rSend } := by
  have hr : ∀ v : State, v.ctl = .rRead → tick v = tickRead v := fun v hv => by simp [tick, hv]
  by_cases hm : s.mode = modeRead
  · rw [readByte, if_pos hm, Flow.go.injEq] at h
    have e0 : Reaches s (startSerialize s) := .one (by rw [hr s hc]; simp [tickRead, hb, hm])
    have e1 := reaches_serialize (s := s) fun v hv hb => by rw [hr v (by rw [hv, hc])]; simp [tickRead, hb]
    have e2 := reaches_readTail (u := serialize (byteAddr s) s) (by simpa using hc) s.cfg.settleBus
    refine e0.trans (e1.trans ?_)
    rw [← h]
    have hd : ∀ u : State, u.dly = 0 → ({ u with busPhase := .idle, ctl := .rSend, dly := 0 } : State) =
        { u with busPhase := .idle, ctl := .rSend } := by
      intro u hu; rw [← hu]
    rw [hd _ (by simp)] at e2
    exact e2
  · rw [readByte_fault _ hm] at h
    cases h

/-- WRITE_BYTE clock by clock (41_bus_mode_controller.md R158). -/
theorem reaches_writeByte {s t : State} (hc : s.ctl = .wWrite) (hb : s.busPhase = .idle)
    (h : writeByte (byteAddr s) s.data s = .go t) : Reaches s (writeHead { t with idx := t.idx + 1 }) := by
  have hr : ∀ v : State, v.ctl = .wWrite → tick v = tickWrite v := fun v hv => by simp [tick, hv]
  by_cases hm : s.mode = modeWrite
  · rw [writeByte, if_pos hm, Flow.go.injEq] at h
    have e0 : Reaches s (startSerialize s) := .one (by rw [hr s hc]; simp [tickWrite, hb, hm])
    have e1 := reaches_serialize (s := s) fun v hv hb => by rw [hr v (by rw [hv, hc])]; simp [tickWrite, hb]
    have e2 := reaches_writeTail (u := serialize (byteAddr s) s) (by simpa using hc) s.cfg.settleBus
    refine e0.trans (e1.trans ?_)
    rw [← h]
    simp only [serialize_data] at e2
    have hd : ∀ u : State, u.dly = 0 → writeHead { u with busPhase := .idle, dly := 0, idx := s.idx + 1 } =
        writeHead { u with busPhase := .idle, idx := s.idx + 1 } := by
      intro u hu; rw [← hu]
    rw [serialize_idx, hd _ (by simp)] at e2
    simpa using e2
  · rw [writeByte_fault _ _ hm] at h
    cases h

end Sys2Proof.Machine
end

