-- ==== Sys2Proof/Laws/Decode.lean ====
section
/-! SUPPORT. The bytes of an address and the address of its bytes (30_encoding.md R99). -/

namespace Sys2Proof

/-- The value of an address from its bytes. -/
theorem assembleAddr_toNat (x y z : Byte) :
    (assembleAddr x y z).toNat = x.toNat * 65536 + y.toNat * 256 + z.toNat := by
  have h1 : (x ++ y).toNat = x.toNat * 256 + y.toNat := by
    rw [BitVec.toNat_append, ← Nat.shiftLeft_add_eq_or_of_lt y.isLt, Nat.shiftLeft_eq]
  have h2 : (assembleAddr x y z).toNat = (x ++ y).toNat * 256 + z.toNat := by
    show (x ++ y ++ z).toNat = _
    rw [BitVec.toNat_append, ← Nat.shiftLeft_add_eq_or_of_lt z.isLt, Nat.shiftLeft_eq]
  rw [h2, h1]
  ring

theorem extract_toNat (a : Addr) (k : Nat) : (a.extractLsb' k 8).toNat = a.toNat / 2 ^ k % 256 := by
  simp [BitVec.extractLsb'_toNat, Nat.shiftRight_eq_div_pow]

/-- The three bytes of an assembled address. -/
@[simp] theorem assembleAddr_hi (x y z : Byte) : (assembleAddr x y z).extractLsb' 16 8 = x := by
  apply BitVec.eq_of_toNat_eq
  rw [extract_toNat, assembleAddr_toNat]
  have := x.isLt; have := y.isLt; have := z.isLt
  omega

@[simp] theorem assembleAddr_mid (x y z : Byte) : (assembleAddr x y z).extractLsb' 8 8 = y := by
  apply BitVec.eq_of_toNat_eq
  rw [extract_toNat, assembleAddr_toNat]
  have := x.isLt; have := y.isLt; have := z.isLt
  omega

@[simp] theorem assembleAddr_lo (x y z : Byte) : (assembleAddr x y z).extractLsb' 0 8 = z := by
  apply BitVec.eq_of_toNat_eq
  rw [extract_toNat, assembleAddr_toNat]
  have := x.isLt; have := y.isLt; have := z.isLt
  omega

/-- An address is assembled from its own three bytes. -/
@[simp] theorem assembleAddr_extract (a : Addr) :
    assembleAddr (a.extractLsb' 16 8) (a.extractLsb' 8 8) (a.extractLsb' 0 8) = a := by
  apply BitVec.eq_of_toNat_eq
  rw [assembleAddr_toNat, extract_toNat, extract_toNat, extract_toNat]
  have := a.isLt
  omega

end Sys2Proof
end

