-- ==== Sys2Proof/Laws/Messages.lean ====
section
/-! SUPPORT. The error messages of a build: every function of the reported value is one, and the digits of `DEC`. -/

namespace Sys2Proof.Machine

open Sys2Proof.Config (BoundText Params)

@[simp] theorem partBytes_text (v : Addr) (bs : List Byte) : partBytes v (.text bs) = bs := rfl
@[simp] theorem partBytes_decimal (v : Addr) : partBytes v .decimal = dec v := rfl
@[simp] theorem message_rangeOrder (p : Params) (v : Addr) : message p .rangeOrder v = p.msgRangeOrder := rfl
@[simp] theorem message_flowDesync (p : Params) (v : Addr) : message p .flowDesync v = p.msgFlowDesync := rfl
@[simp] theorem message_unknownCmd (p : Params) (v : Addr) : message p .unknownCmd v = p.msgUnknownCmd := rfl
@[simp] theorem message_startOob (p : Params) (v : Addr) : message p .startOob v = boundMessage p.msgStartOob v := rfl
@[simp] theorem message_endOob (p : Params) (v : Addr) : message p .endOob v = boundMessage p.msgEndOob v := rfl

/-- Without values of its own a bound message is its pieces. -/
theorem boundMessage_parts (ps : List Config.TextPart) (v : Addr) :
    boundMessage { parts := ps, special := [] } v = ps.flatMap (partBytes v) := rfl

theorem lookup_map_of_mem {α : Type} {β : Type} [BEq α] [LawfulBEq α] (f : α → β) {xs : List α} {x : α}
    (h : x ∈ xs) : (xs.map fun y => (y, f y)).lookup x = some (f x) := by
  induction xs with
  | nil => cases h
  | cons y ys ih =>
    by_cases hxy : x = y
    · simp [hxy]
    · rw [List.map_cons, List.lookup_cons, beq_false_of_ne hxy]
      exact ih ((List.mem_cons.1 h).resolve_left hxy)

/-- Every message that depends on the reported value, in whatever way, is a `BoundText` (00_scope.md R7). -/
theorem exists_boundText (f : Addr → List Byte) : ∃ t : BoundText, ∀ v, boundMessage t v = f v := by
  refine ⟨{ parts := [], special := ((List.range (2 ^ 24)).map (BitVec.ofNat 24)).map fun v => (v, f v) }, fun v => ?_⟩
  have hv : v ∈ (List.range (2 ^ 24)).map (BitVec.ofNat 24) :=
    List.mem_map.2 ⟨v.toNat, List.mem_range.2 v.isLt, BitVec.ofNat_toNat _ v ▸ BitVec.setWidth_eq v⟩
  rw [boundMessage, lookup_map_of_mem f hv, Option.getD_some]

theorem mem_decDigits {fuel n : Nat} {x : Byte} (h : x ∈ decDigits fuel n) : 0x30 ≤ x.toNat ∧ x.toNat ≤ 0x39 := by
  induction fuel generalizing n with
  | zero => cases h
  | succ fuel ih =>
    rw [decDigits] at h
    split at h
    · obtain rfl := List.mem_singleton.1 h
      rw [BitVec.toNat_ofNat]
      omega
    · rcases List.mem_append.1 h with h | h
      · exact ih h
      · obtain rfl := List.mem_singleton.1 h
        rw [BitVec.toNat_ofNat]
        omega

end Sys2Proof.Machine
end

