-- ==== Sys2Proof/Laws/PerInstr.lean ====
section
/-! SUPPORT. Facts about every command as syntax, one lemma per constructor. -/

/-- A command's frame begins with the sync marker and has the length of its format, told by its fifth byte
(30_encoding.md R91, R92). -/
def Sys2Proof.Laws.Framed.Statement (i : Sys2Proof.Instr) : Prop :=
  (Sys2Proof.encode i).take 4 = Sys2Proof.syncMarker ∧
    (Sys2Proof.encode i).length = Sys2Proof.frameLength i ∧
    Sys2Proof.frameLength i ≤ Sys2Proof.maxFrameLength ∧
    (i.wellFormed = true →
      (Sys2Proof.frameLength i = 11 ↔
        (Sys2Proof.encode i).getD 4 0 = Sys2Proof.opRead ∨ (Sys2Proof.encode i).getD 4 0 = Sys2Proof.opWrite))

theorem Sys2Proof.Laws.Framed.status : Sys2Proof.Laws.Framed.Statement .status := by
  unfold Sys2Proof.Laws.Framed.Statement; decide

theorem Sys2Proof.Laws.Framed.read (startA endA : Sys2Proof.Addr) :
    Sys2Proof.Laws.Framed.Statement (.read startA endA) :=
  ⟨rfl, rfl, le_rfl, fun _ => ⟨fun _ => .inl rfl, fun _ => rfl⟩⟩

theorem Sys2Proof.Laws.Framed.write (startA endA : Sys2Proof.Addr) :
    Sys2Proof.Laws.Framed.Statement (.write startA endA) :=
  ⟨rfl, rfl, le_rfl, fun _ => ⟨fun _ => .inr rfl, fun _ => rfl⟩⟩

theorem Sys2Proof.Laws.Framed.unknown (op : Sys2Proof.Byte) :
    Sys2Proof.Laws.Framed.Statement (.unknown op) := by
  refine ⟨rfl, rfl, (by decide : 5 ≤ 11), fun h => ⟨fun h5 => absurd h5 (by decide : ¬ 5 = 11), fun hop => ?_⟩⟩
  rcases hop with hop | hop <;>
    (change op = _ at hop; rw [hop] at h; exact absurd h (by decide))
end

