-- ==== Sys2Proof/Laws/Run.lean ====
section
/-! SUPPORT. What runs of several steps are, and when a step is one edge of the clocked controller. -/

namespace Sys2Proof.Safety

open Sys2Proof Sys2Proof.Machine

@[simp] theorem run_zero (s : State) : run 0 s = .next s := rfl

theorem run_succ_next (k : Nat) {s t : State} (h : step s = .next t) : run (k + 1) s = run k t := by
  have hc : Sys2Proof.core.step s = .next t := h
  simp only [run, Host.Core.run, hc]
  rfl

theorem run_succ_fault (k : Nat) {s : State} {f : Fault} (h : step s = .fault f) : run (k + 1) s = .fault f := by
  have hc : Sys2Proof.core.step s = .fault f := h
  simp only [run, Host.Core.run, hc]
  rfl

theorem run_one (s : State) : run 1 s = step s := by
  cases h : step s with
  | next t => rw [run_succ_next 0 h, run_zero]
  | fault f => exact run_succ_fault 0 h
  | refused r =>
    have hc : Sys2Proof.core.step s = .refused r := h
    simp only [run, Host.Core.run, hc]
    rfl

/-- Runs compose. -/
theorem run_add (j k : Nat) {s t : State} (h : run j s = .next t) : run (j + k) s = run k t := by
  induction j generalizing s with
  | zero =>
    rw [run_zero, Host.Outcome.next.injEq] at h
    rw [h, Nat.zero_add]
  | succ j ih =>
    rw [Nat.add_right_comm]
    cases hs : step s with
    | next u =>
      rw [run_succ_next _ hs] at h ⊢
      exact ih h
    | fault f => rw [run_succ_fault _ hs] at h; cases h
    | refused r =>
      have hc : Sys2Proof.core.step s = .refused r := hs
      simp only [run, Host.Core.run, hc] at h
      cases h

/-- Away from SYNC0 no frame is fetched. -/
theorem fetch_of_ctl {s : State} (h : s.ctl ≠ .sync 0) : fetch s = none := by simp [fetch, h]

/-- A step of a running CORE without a frame to fetch is one clock edge. -/
theorem step_eq_tick {s : State} (hr : running s) (hf : fetch s = none) : step s = (tick s).outcome := by
  simp [step, hr.1, hr.2, hf]

/-- A step of a running CORE with a frame waiting at SYNC0 is its command. -/
theorem step_eq_exec {s : State} {i : Instr} {t : State} (hr : running s) (hf : fetch s = some (i, t)) :
    step s = exec i t := by
  simp [step, hr.1, hr.2, hf]

@[simp] theorem scanned_nil (retest : Bool) (c : Ctl) : scanned retest c [] = c := by cases c <;> rfl
@[simp] theorem scanned_cons (retest : Bool) (k : Fin 4) (b : Byte) (bs : List Byte) :
    scanned retest (.sync k) (b :: bs) = scanned retest (syncNext retest k b) bs := rfl

theorem sampledAt_reference (a : Addr) {s : State} (h : s.cfg.chip = .reference) (i : Nat) :
    sampledAt a s i = memRead s.mem (a.toNat + i) := if_pos h

/-- Fewer builds have fewer reachable states. -/
theorem ReachableWith.mono {p q : Config.Params → Prop} (hpq : ∀ c, p c → q c) {s : State} (h : ReachableWith p s) :
    ReachableWith q s := by
  induction h with
  | boot cfg mem chain bytes ready draws hc hm => exact .boot cfg mem chain bytes ready draws (hpq _ hc) hm
  | environment bytes ready rst _ ih => exact .environment bytes ready rst ih
  | step _ hs ih => exact .step ih hs

/-- Inside a run the build keeps its property when no step writes it. -/
theorem ReachableWith.build {p : Config.Params → Prop} (hcfg : ∀ s t, Machine.step s = .next t → t.cfg = s.cfg)
    {s : State} (h : ReachableWith p s) : p s.cfg := by
  induction h with
  | boot cfg mem chain bytes ready draws hc hm => exact hc
  | environment bytes ready rst _ ih => exact ih
  | step _ hs ih => exact hcfg _ _ hs ▸ ih

end Sys2Proof.Safety
end

