-- ==== Sys2Proof/Tests/Slice0.lean ====
section
/-! SUPPORT. The author's own tests (expected values from spec/95_test_vectors.md, the rules' examples, or by hand from
spec/30_encoding.md), and a witness for the hypotheses of each statement. -/

namespace Sys2Proof.Tests

open Sys2Proof Sys2Proof.Machine Sys2Proof.Safety

/-- The reset state with bytes in the host's channel. -/
def withHost (q : List Byte) : State := { State.reset with hostRx := q }

/-- The bytes sent in one step. -/
def sentIn (s : State) : Option (List Byte) :=
  match step s with
  | .next t => some (sentBytes t.trace)
  | _ => none

/-- A field of the state after one step. -/
def after {α : Type} (f : State → α) (s : State) : Option α :=
  match step s with
  | .next t => some (f t)
  | _ => none

/-! ## Well-formedness -/

theorem test_unknown_S_is_ill_formed : (Instr.unknown 0x53).wellFormed = false := by decide
theorem test_unknown_R_is_ill_formed : (Instr.unknown 0x52).wellFormed = false := by decide
theorem test_unknown_W_is_ill_formed : (Instr.unknown 0x57).wellFormed = false := by decide
theorem test_unknown_lower_s_is_well_formed : (Instr.unknown 0x73).wellFormed = true := by decide

/-! ## Decoding, words from 30_encoding.md R91, R95, R99 -/

theorem test_decode_status : decode [0x53, 0x52, 0x41, 0x4D, 0x53] = .ok (.status, []) := by decide
theorem test_decode_read :
    decode [0x53, 0x52, 0x41, 0x4D, 0x52, 0x01, 0x23, 0x45, 0x01, 0x67, 0x89, 0xFF]
      = .ok (.read 0x012345 0x016789, [0xFF]) := by decide
theorem test_decode_write :
    decode [0x53, 0x52, 0x41, 0x4D, 0x57, 0x01, 0xFF, 0xFF, 0x02, 0x00, 0x00]
      = .ok (.write 0x01FFFF 0x020000, []) := by decide
theorem test_decode_unknown : decode [0x53, 0x52, 0x41, 0x4D, 0x58, 0x41] = .ok (.unknown 0x58, [0x41]) := by decide
theorem test_decode_no_marker : decode [0x53, 0x52, 0x41, 0x4E, 0x53] = .error .noSyncMarker := by decide
theorem test_decode_short_operands :
    decode [0x53, 0x52, 0x41, 0x4D, 0x52, 0x00, 0x00, 0x00, 0x00, 0x00] = .error .incomplete := by decide
theorem test_encode_read :
    encode (.read 0x000100 0x000120) = [0x53, 0x52, 0x41, 0x4D, 0x52, 0x00, 0x01, 0x00, 0x00, 0x01, 0x20] := by decide

/-- The first frame byte in the low bits. -/
theorem test_table_word_status : decodeTableWord 40 0x534D415253 = some .status := by decide
/-- The table's own `match` value, one big-endian number. -/
theorem test_table_match_status : decodeTableWord 40 0x5352414D53 = some .status := by decide
theorem test_table_word_read : decodeTableWord 40 0x524D415253 = some (.read 0 0) := by decide
theorem test_table_match_write : decodeTableWord 40 0x5352414D57 = some (.write 0 0) := by decide
theorem test_table_match_unknown : decodeTableWord 40 0x5352414D00 = some (.unknown 0x00) := by decide
theorem test_table_word_operands :
    decodeTableWord 88 0x2001000001005752414D53 = none ∧
    decodeTableWord 88 0x200100000100574D415253 = some (.write 0x000100 0x000120) := by decide

/-! ## One step -/

/-- 43_commands.md R212, its example. -/
theorem test_status : sentIn (withHost [0x53, 0x52, 0x41, 0x4D, 0x53]) = some [0x4F, 0x4B] := by decide

/-- 45_response_encoder.md R263, its example. -/
theorem test_unknown : sentIn (withHost [0x53, 0x52, 0x41, 0x4D, 0x58]) =
    some [0x4E, 0x47, 0x55, 0x6E, 0x6B, 0x6E, 0x6F, 0x77, 0x6E, 0x20, 0x63, 0x6F, 0x6D, 0x6D, 0x61, 0x6E, 0x64, 0x00] := by
  decide

/-- 43_commands.md R216, its example. -/
theorem test_read :
    sentIn { withHost [0x53, 0x52, 0x41, 0x4D, 0x52, 0x00, 0x01, 0x00, 0x00, 0x01, 0x03, 0x43, 0x4F] with
      mem := [(0x100, 0x11), (0x101, 0x22), (0x102, 0x33)] } =
      some [0x43, 0x4F, 0x11, 0x22, 0x33, 0x4F, 0x4B] := by decide +kernel

/-- 44_flow_control.md R243: a bad token, default text. -/
theorem test_read_desync :
    (sentIn (withHost [0x53, 0x52, 0x41, 0x4D, 0x52, 0x00, 0x01, 0x00, 0x00, 0x01, 0x03, 0x43, 0x4E])).map (·.take 7) =
      some [0x43, 0x4F, 0x4E, 0x47, 0x75, 0x6E, 0x65] := by decide

/-- 43_commands.md R220, its example. -/
theorem test_write :
    after (fun t => (sentBytes t.trace, t.mem))
      (withHost [0x53, 0x52, 0x41, 0x4D, 0x57, 0x00, 0x01, 0x00, 0x00, 0x01, 0x02, 0x5A, 0xA5]) =
      some ([0x43, 0x4F, 0x4F, 0x4B], [(0x100, 0x5A), (0x101, 0xA5)]) := by decide +kernel

/-- 42_command_framer.md R188: END_OOB at its first value, with its decimal value 131073. -/
theorem test_write_end_out_of_bounds :
    (sentIn (withHost [0x53, 0x52, 0x41, 0x4D, 0x57, 0x00, 0x00, 0x10, 0x02, 0x00, 0x01])).map (·.drop 32) =
      some [0x31, 0x33, 0x31, 0x30, 0x37, 0x33, 0x00] := by decide

/-- The host's question: the table word runs as the first command after reset. -/
theorem test_fetch_word : sentIn (State.reset.withFetchWord 40 0x534D415253) = some [0x4F, 0x4B] := by decide

/-- 40_address_serializer.md R131, its example. -/
theorem test_serialize :
    clockedBits false (serialize 0x00012B State.reset).trace =
      [false, false, false, false, false, false, false, false, false, false, false, false, false, false, false, true,
       false, false, true, false, true, false, true, true] := by decide

/-- 45_response_encoder.md R272. -/
theorem test_dec : dec 0 = [0x30] ∧ dec 0xFFFFFF = [0x31, 0x36, 0x37, 0x37, 0x37, 0x32, 0x31, 0x35] := by decide

/-! ## Witnesses for the hypotheses of the statements -/

/-- A state in reset, inside a write pulse or not. -/
def resetting (pulse : Bool) : State := { State.reset with rst := true, weAct := pulse, dOe := pulse, mode := if pulse then 2 else 0 }

theorem witness_ResetEdgeValues : (resetting false).rst = true ∧ (resetting false).weAct = false := by decide
theorem witness_ResetDiscardsCommand :
    (resetting true).rst = true ∧ (resetting true).weAct = true ∧ 0x1FFFF ≠ chipAddr (resetting true) := by decide

theorem witness_StepRunsDecodedFrame :
    running (withHost (encode .status)) ∧ (withHost (encode .status)).ctl = .sync 0 ∧
      decode (withHost (encode .status)).hostRx = .ok (.status, []) := by decide
theorem witness_DecodeInvertsEncode : (Instr.unknown 0x58).wellFormed = true := by decide
theorem witness_EncodeInvertsDecode :
    decode [0x53, 0x52, 0x41, 0x4D, 0x58, 0x41] = .ok (.unknown 0x58, [0x41]) := by decide

/-- A state that executes RxByte at a label, with bytes waiting. -/
def receiving (c : Ctl) (q : List Byte) : State := { State.reset with ctl := c, rxReady := true, hostRx := q }

theorem witness_SyncScanByte_noise :
    running (receiving (.sync 0) [0x00]) ∧ (receiving (.sync 0) [0x00]).rxReady = true ∧
      (receiving (.sync 0) [0x00]).hostRx = 0x00 :: [] ∧ decode [0x00] = .error .incomplete := by decide
theorem witness_SyncScanByte_last :
    running (receiving (.sync 3) [0x4D]) ∧ (receiving (.sync 3) [0x4D]).ctl = .sync 3 ∧
      (receiving (.sync 3) [0x4D]).hostRx = 0x4D :: [] ∧ (3 : Fin 4) ≠ 0 := by decide
theorem witness_SyncScanByte_retest :
    let s : State := { receiving (.sync 2) [0x53] with cfg := { defaultParams with syncRetest := true } }
    running s ∧ s.ctl = .sync 2 ∧ s.rxReady = true ∧ s.hostRx = 0x53 :: [] ∧ s.cfg.syncRetest = true ∧
      (2 : Fin 4) ≠ 0 := by decide
/-- A broken partial marker before a frame (spec/95_test_vectors.md, P1). -/
theorem witness_NoiseThenFrame :
    let s := withHost ([0x53, 0x52, 0x55] ++ encode .status ++ [0x01])
    running s ∧ s.ctl = .sync 0 ∧ Instr.status.wellFormed = true ∧
      scanned s.cfg.syncRetest (.sync 0) [0x53, 0x52, 0x55] = .sync 0 := by decide
theorem witness_NoiseThenFrame_retest :
    let s : State := { withHost ([0x53, 0x52] ++ encode .status) with cfg := { defaultParams with syncRetest := true } }
    running s ∧ s.ctl = .sync 0 ∧ s.cfg.syncRetest = true ∧ scanned true (.sync 0) [0x53, 0x52] = .sync 2 ∧
      s.txValid = false ∧ s.busPhase = .idle := by decide
theorem witness_DispatchOnInstructionByte :
    ∀ b ∈ ([0x53, 0x52, 0x57, 0x58] : List Byte),
      running (receiving .instr [b]) ∧ (receiving .instr [b]).ctl = .instr ∧ (receiving .instr [b]).rxReady = true ∧
        (receiving .instr [b]).hostRx = b :: [] := by decide
theorem witness_RangeOperandsReceived :
    let s : State := { State.reset with ctl := .addr 0, hostRx := [0x00, 0x01, 0x00, 0x00, 0x01, 0x20] ++ [] }
    running s ∧ s.ctl = .addr 0 ∧ s.rxReady = false := by decide
theorem witness_RangeOperandsReceived_short :
    let s : State := { State.reset with ctl := .addr 0, hostRx := [0x00, 0x01, 0x00, 0x00, 0x01] }
    running s ∧ s.ctl = .addr 0 ∧ s.rxReady = false ∧ s.hostRx.length < 6 := by decide

/-- A state at CHECK. -/
def checking (op : Byte) (a b : Addr) : State :=
  { State.reset with ctl := .check, op := op, startAddr := a, endAddr := b }

theorem witness_ValidationOrder_start :
    running (checking 0x52 0x20000 0x30000) ∧ (checking 0x52 0x20000 0x30000).ctl = .check := by decide
theorem witness_ValidationOrder_end :
    running (checking 0x52 0x1FFFF 0x20001) ∧ (checking 0x52 0x1FFFF 0x20001).ctl = .check ∧
      ¬ ¬ (0x1FFFF : Addr).toNat < 0x20000 ∧ ¬ (0x20001 : Addr).toNat ≤ 0x20000 := by decide
theorem witness_ValidationOrder_order :
    running (checking 0x57 0x1FFFF 0x1FFFF) ∧ (checking 0x57 0x1FFFF 0x1FFFF).ctl = .check ∧
      (0x1FFFF : Addr).toNat ≤ 0x20000 ∧ ¬ (0x1FFFF : Addr).toNat < (0x1FFFF : Addr).toNat := by decide
theorem witness_ValidationOrder_valid :
    running (checking 0x57 0x1FFFF 0x20000) ∧ (checking 0x57 0x1FFFF 0x20000).op = 0x57 := by decide

theorem witness_UnknownAnswersError :
    State.reset.txReady = true ∧ pinsQuiet State.reset ∧ (0x72 : Byte) ≠ 0x53 ∧ (0x72 : Byte) ≠ 0x52 ∧
      (0x72 : Byte) ≠ 0x57 := by decide
theorem witness_InvalidRangeAborts_start :
    State.reset.txReady = true ∧ pinsQuiet State.reset ∧ 0x20000 ≤ (0x20000 : Addr).toNat := by decide
theorem witness_InvalidRangeAborts_end :
    State.reset.txReady = true ∧ pinsQuiet State.reset ∧ (0x1FFFF : Addr).toNat < 0x20000 ∧
      0x20000 < (0x20001 : Addr).toNat := by decide
theorem witness_InvalidRangeAborts_order :
    State.reset.txReady = true ∧ pinsQuiet State.reset ∧ (0x1FFFF : Addr).toNat < 0x20000 ∧
      (0x1FFFF : Addr).toNat ≤ 0x20000 ∧ (0x1FFFF : Addr).toNat ≤ (0x1FFFF : Addr).toNat := by decide

/-- The reset state with a host that accepts nothing. -/
def deaf : State := { State.reset with txReady := false }

theorem witness_AbortWaitsForHost_unknown :
    deaf.txReady = false ∧ (0x72 : Byte) ≠ 0x53 ∧ (0x72 : Byte) ≠ 0x52 ∧ (0x72 : Byte) ≠ 0x57 := by decide
theorem witness_AbortWaitsForHost_start : deaf.txReady = false ∧ 0x20000 ≤ (0x20000 : Addr).toNat := by decide
theorem witness_AbortWaitsForHost_end :
    deaf.txReady = false ∧ (0x1FFFF : Addr).toNat < 0x20000 ∧ 0x20000 < (0x20001 : Addr).toNat := by decide
theorem witness_AbortWaitsForHost_order :
    deaf.txReady = false ∧ (0x1FFFF : Addr).toNat < 0x20000 ∧ (0x1FFFF : Addr).toNat ≤ 0x20000 ∧
      (0x1FFFF : Addr).toNat ≤ (0x1FFFF : Addr).toNat := by decide
theorem witness_AbortWaitsForHost_desync :
    let s : State := { deaf with ctl := .rTokchk, mode := modeRead, tok0 := 0x43, tok1 := 0x4E }
    running s ∧ s.txReady = false ∧ s.ctl = .rTokchk ∧ s.txValid = false ∧ ¬ (s.tok0 = 0x43 ∧ s.tok1 = 0x4F) := by decide
theorem witness_StatusAnswersOk_ready : State.reset.txReady = true := by decide
theorem witness_StatusAnswersOk_waiting : deaf.txReady = false := by decide
theorem witness_AbortThenNextCommand_unknown :
    let s := withHost (encode (.unknown 0x58) ++ [] ++ encode (.read 0 1) ++ [0x00])
    running s ∧ s.ctl = .sync 0 ∧ s.txReady = true ∧ pinsQuiet s ∧ (Instr.unknown 0x58).wellFormed = true ∧
      (Instr.read 0 1).wellFormed = true := by decide
theorem witness_AbortThenNextCommand_range :
    let s := withHost (encode (.write 0x1FFFF 0x20001) ++ [] ++ encode .status ++ [])
    running s ∧ s.ctl = .sync 0 ∧ s.txReady = true ∧ pinsQuiet s ∧ ¬ validRange 0x1FFFF 0x20001 := by decide
theorem witness_AbortThenNextCommand_desync :
    let s := withHost (encode (.read 0 0x21) ++ (tokens 1 ++ [0x43, 0x4E]) ++ encode .status ++ [])
    running s ∧ s.ctl = .sync 0 ∧ s.txReady = true ∧ pinsQuiet s ∧ validRange 0 0x21 ∧
      1 < windowCount ((0x21 : Addr).toNat - (0 : Addr).toNat) ∧ ¬ ((0x43 : Byte) = 0x43 ∧ (0x4E : Byte) = 0x4F) := by decide

/-- A host that has sent the tokens of a Read of 33 bytes, and one byte more. -/
def readHost : State := withHost (tokens 2 ++ [0x00])

theorem witness_ReadCompletes :
    readHost.txReady = true ∧ pinsQuiet readHost ∧ validRange 0x1FFDF 0x20000 ∧
      readHost.hostRx = tokens (windowCount ((0x20000 : Addr).toNat - (0x1FFDF : Addr).toNat)) ++ [0x00] := by decide
theorem witness_ReadLinkStream :
    let s : State := { withHost (tokens 1 ++ []) with cfg := { defaultParams with chip := .free } }
    s.txReady = true ∧ pinsQuiet s ∧ validRange 0x00000 0x00020 ∧
      s.hostRx = tokens (windowCount ((0x20 : Addr).toNat - (0 : Addr).toNat)) ++ [] := by decide
theorem witness_ReadDesyncAborts :
    let s := withHost (tokens 1 ++ 0x43 :: 0x4E :: [])
    s.txReady = true ∧ pinsQuiet s ∧ validRange 0x00000 0x00021 ∧
      1 < windowCount ((0x21 : Addr).toNat - (0 : Addr).toNat) ∧ ¬ ((0x43 : Byte) = 0x43 ∧ (0x4E : Byte) = 0x4F) := by
  decide
theorem witness_ReadWaitsForToken :
    let s := withHost (tokens 1)
    s.txReady = true ∧ pinsQuiet s ∧ validRange 0x00000 0x00021 ∧
      1 < windowCount ((0x21 : Addr).toNat - (0 : Addr).toNat) ∧ s.hostRx = tokens 1 := by decide
theorem witness_ReadWaitsForToken_half :
    let s := withHost (tokens 0 ++ [0x43])
    s.txReady = true ∧ pinsQuiet s ∧ validRange 0x1FFFF 0x20000 ∧
      0 < windowCount ((0x20000 : Addr).toNat - (0x1FFFF : Addr).toNat) ∧ s.hostRx = tokens 0 ++ [0x43] := by decide
theorem witness_TransfersWaitForSink :
    deaf.txReady = false ∧ pinsQuiet deaf ∧ validRange 0x1FFFF 0x20000 := by decide
theorem witness_WriteCompletes :
    let s := withHost ([0x5A, 0xA5] ++ [0x00])
    s.txReady = true ∧ pinsQuiet s ∧ validRange 0x1FFFE 0x20000 ∧
      ([0x5A, 0xA5] : List Byte).length = (0x20000 : Addr).toNat - (0x1FFFE : Addr).toNat := by decide
theorem witness_WriteLinkStream :
    let s := withHost (List.replicate 32 0x5A ++ [])
    s.txReady = true ∧ pinsQuiet s ∧ validRange 0x00000 0x00020 ∧
      (List.replicate 32 (0x5A : Byte)).length = (0x20 : Addr).toNat - (0 : Addr).toNat := by decide
/-- At a window boundary, where the next grant is due. -/
theorem witness_WriteWaitsForPayload_boundary :
    let s := withHost (List.replicate 32 0x5A)
    s.txReady = true ∧ pinsQuiet s ∧ validRange 0x00000 0x00021 ∧
      (List.replicate 32 (0x5A : Byte)).length < (0x21 : Addr).toNat - (0 : Addr).toNat ∧
      (List.replicate 32 (0x5A : Byte)).length % 32 = 0 := by decide
theorem witness_WriteWaitsForPayload :
    let s := withHost [0x5A]
    s.txReady = true ∧ pinsQuiet s ∧ validRange 0x00000 0x00002 ∧
      ([0x5A] : List Byte).length < (0x2 : Addr).toNat - (0 : Addr).toNat ∧ s.hostRx = [0x5A] := by decide
theorem witness_RoundTripWriteThenRead :
    let s := withHost (encode (.write 0x1FFFF 0x20000) ++ [0xA5] ++ encode (.read 0x1FFFF 0x20000) ++
      tokens (windowCount 1) ++ [])
    running s ∧ s.ctl = .sync 0 ∧ s.txReady = true ∧ pinsQuiet s ∧ s.cfg.chip = .reference ∧
      validRange 0x1FFFF 0x20000 ∧
      ([0xA5] : List Byte).length = (0x20000 : Addr).toNat - (0x1FFFF : Addr).toNat := by decide
theorem witness_OnlyWriteChangesMemory :
    pinsQuiet deaf ∧ exec .status deaf = .next (offering .sOk .ok 0x4F { deaf with op := 0x53 }) ∧
      ∀ a b : Addr, Instr.status = .write a b → 0 < a.toNat ∨ b.toNat ≤ 0 :=
  ⟨by decide, rfl, fun _ _ h => nomatch h⟩

theorem witness_SerializeClocksAddress : State.reset.srClk = false := by decide

/-- A Read about to make the transaction of its last address. -/
def readingLast : State :=
  { State.reset with
    ctl := .rRead, mode := modeRead, op := opRead, startAddr := 0x1FFFE, endAddr := 0x20000, idx := 1, tok0 := 0x43, tok1 := 0x4F }

/-- A Write about to make the transaction of its last address. -/
def writingLast : State :=
  { State.reset with
    ctl := .wWrite, mode := modeWrite, op := opWrite, dOe := true, startAddr := 0x1FFFE, endAddr := 0x20000, idx := 1,
    data := 0xA5 }

theorem witness_ReadByteLatchesMemory :
    readingLast.rst = false ∧ readingLast.mode = modeRead ∧ readingLast.busPhase = .idle ∧ pinsQuiet readingLast ∧
      readingLast.cfg.chip = .reference ∧ (byteAddr readingLast).toNat = 0x1FFFF := by decide
theorem witness_WriteByteCommitsByte :
    writingLast.rst = false ∧ writingLast.mode = modeWrite ∧ writingLast.busPhase = .idle ∧ writingLast.srClk = false ∧
      writingLast.weAct = false ∧ writingLast.dOe = true ∧ (byteAddr writingLast).toNat = 0x1FFFF := by decide
theorem witness_TransactionsOutsideTheirModeFault :
    running { readingLast with mode := modeIdle } ∧ { readingLast with mode := modeIdle }.busPhase = .idle ∧
      modeIdle ≠ modeRead ∧ running { writingLast with mode := modeRead } ∧ modeRead ≠ modeWrite := by decide
theorem witness_IllegalModeFaults : { State.reset with mode := 0b11 }.rst = false := by decide
theorem witness_ModeEntries : writingLast.oeAct = false ∧ writingLast.weAct = false ∧ writingLast.dOe = true := by decide

/-- The invariant inside a transfer. -/
theorem witness_Inv_reading : Inv readingLast := by constructor <;> decide
theorem witness_Inv_writing : Inv writingLast := by constructor <;> decide

theorem witness_PinsChangeOnlyInTheirOperations :
    Inv readingLast ∧ tick readingLast = .go (startSerialize readingLast) := ⟨witness_Inv_reading, rfl⟩
theorem witness_SettleDelayHolds :
    let s : State := { readingLast with busPhase := .settleEnable, dly := 3 }
    let u : State := { writingLast with busPhase := .serialize, serPhase := .settleRise, dly := 1 }
    running s ∧ 3 ≤ s.dly ∧ s.ctl = .rRead ∧ running u ∧ 1 ≤ u.dly ∧ u.ctl = .wWrite := by decide
theorem witness_SettleDelayHolds_loaded :
    tick { writingLast with busPhase := .deassert, weAct := true } =
      .go { setWeAct false { writingLast with busPhase := .deassert, weAct := true } with
        busPhase := .settleHold, dly := 1 } := rfl
theorem witness_HostWaitsHold_receive :
    running (receiving .wRecv []) ∧ receives Ctl.wRecv = true ∧ (receiving .wRecv []).hostRx = [] := by decide
theorem witness_HostWaitsHold_send :
    let s := offering .errEmit .ng 0x4E deaf
    running s ∧ sends s.ctl = true ∧ s.txValid = true ∧ s.txReady = false := by decide
theorem witness_FrameResumesAfterWait :
    let s := offering .doneOk .ok 0x4F State.reset
    running s ∧ frameAt s.ctl = some .ok ∧ s.encFrame = some .ok ∧ s.txValid = true ∧ s.txReady = true ∧
      s.encPos < (frameBytes .ok s).length ∧ s.txData = (frameBytes .ok s).getD s.encPos 0 := by decide
theorem witness_ErrorFrameTermination :
    0x00 ∉ message defaultParams .endOob 0x20001 := by decide
theorem witness_DefaultMessages :
    Cause.startOob ≠ .none ∧ Cause.rangeOrder ≠ .startOob ∧ Cause.flowDesync ≠ .rangeOrder := by decide
theorem witness_DecimalDigits : 131072 ≤ (0x20000 : Addr).toNat ∧ (dec 0).head? = some 0x30 := by decide
theorem witness_WindowBoundaries : 2 < windowCount 65 ∧ ¬ 3 < windowCount 65 := by decide
theorem witness_StepKeepsInvariant : Inv readingLast ∧ step readingLast = .next (startSerialize readingLast) :=
  ⟨witness_Inv_reading, rfl⟩
theorem witness_InvariantStepNeverFaults : Inv writingLast := witness_Inv_writing
/-- At SYNC0 after an abort that left READ, in a build with `ABORT_TO_IDLE` false. -/
theorem witness_InvariantGivesQuietPins :
    Inv { readingLast with ctl := .sync 0, cfg := { defaultParams with abortToIdle := false } } := by
  constructor <;> decide
theorem witness_ReachableBusSafety : ReachableWith (fun _ => True) (withHost (encode .status)) :=
  .boot defaultParams [] 0 (encode .status) true 0 trivial (by decide)

/-- A build with other messages: the bound's name and value, and shorter texts. -/
def shortTexts : Config.Params :=
  { defaultParams with
    msgStartOob := { parts := [.text textStarting, .decimal], special := [] }
    msgEndOob := { parts := [.text textEnding, .decimal], special := [] }
    msgRangeOrder := [0x41]
    msgFlowDesync := [0x42] }

theorem shortTexts_ok : buildOk shortTexts := by
  have hs : ∀ v, message shortTexts .startOob v = textStarting ++ dec v := fun v => by
    simp [shortTexts, boundMessage_parts]
  have he : ∀ v, message shortTexts .endOob v = textEnding ++ dec v := fun v => by
    simp [shortTexts, boundMessage_parts]
  have hr : ∀ v, message shortTexts .rangeOrder v = [0x41] := fun _ => rfl
  have hf : ∀ v, message shortTexts .flowDesync v = [0x42] := fun _ => rfl
  have hu : ∀ v, message shortTexts .unknownCmd v = textUnknownCmd := fun _ => rfl
  have printable : ∀ bs : List Byte, bs ∈ [textStarting, textEnding, textUnknownCmd, [0x41], [0x42]] →
      bs ≠ [] ∧ ∀ x ∈ bs, 0x20 ≤ x.toNat ∧ x.toNat ≤ 0x7E := by decide
  have withDec : ∀ (bs : List Byte) (v : Addr), (bs ≠ [] ∧ ∀ x ∈ bs, 0x20 ≤ x.toNat ∧ x.toNat ≤ 0x7E) →
      bs ++ dec v ≠ [] ∧ ∀ x ∈ bs ++ dec v, 0x20 ≤ x.toNat ∧ x.toNat ≤ 0x7E := by
    intro bs v ⟨h1, h2⟩
    refine ⟨by simp [h1], fun x hx => ?_⟩
    rcases List.mem_append.1 hx with hx | hx
    · exact h2 x hx
    · have := mem_decDigits hx
      omega
  refine ⟨⟨?_, fun v _ => ?_, fun v _ => ?_, List.infix_rfl, ?_⟩, by decide, by decide⟩
  · intro c v hc
    cases c with
    | none => exact hc.elim
    | startOob => rw [hs]; exact withDec _ v (printable _ (by decide))
    | endOob => rw [he]; exact withDec _ v (printable _ (by decide))
    | rangeOrder => rw [hr]; exact printable _ (by decide)
    | flowDesync => rw [hf]; exact printable _ (by decide)
    | unknownCmd => rw [hu]; exact printable _ (by decide)
  · rw [hs]; exact ⟨(List.prefix_append _ _).isInfix, (List.suffix_append _ _).isInfix⟩
  · rw [he]; exact ⟨(List.prefix_append _ _).isInfix, (List.suffix_append _ _).isInfix⟩
  · intro c d v w hc hcd hd
    rcases hc with rfl | rfl <;> cases d <;>
      first
        | exact absurd rfl hcd
        | exact hd.elim
        | simp [hs, he, hr, hf, hu, textStarting, textEnding, textUnknownCmd]

/-- A run of a legal build whose host accepts nothing, inside an abort. -/
theorem witness_ReachableErrorFrames :
    ∃ s, Reachable s ∧ s.ctl = .errEmit ∧ s.cause = .startOob :=
  ⟨_, .step (.boot shortTexts [] 0 (encode (.read 0x20000 0)) false 0 shortTexts_ok (by decide)) rfl, rfl, rfl⟩
theorem witness_TransferAddressInRange : Inv writingLast ∧ transfers writingLast.ctl = true :=
  ⟨witness_Inv_writing, by decide⟩
theorem witness_StepAccountsForEveryByte : step State.reset = .next { State.reset with rxReady := true } := rfl
theorem witness_ClockedReachesCommandEnd :
    let s := withHost (encode (.read 0 1))
    s.ctl = .sync 0 ∧ s.txValid = false ∧ s.busPhase = .idle ∧ decode s.hostRx = .ok (.read 0 1, []) := by decide

theorem witness_TokenEdges :
    let s := { receiving .rToken0 [0x43] with mode := modeRead }
    let u := { receiving .rToken1 [0x4F] with mode := modeRead }
    running s ∧ s.rxReady = true ∧ s.hostRx = 0x43 :: [] ∧ s.ctl = .rToken0 ∧
      running u ∧ u.rxReady = true ∧ u.hostRx = 0x4F :: [] ∧ u.ctl = .rToken1 := by decide
theorem witness_TokenEdges_check :
    let s : State := { State.reset with ctl := .rTokchk, mode := modeRead, tok0 := 0x43, tok1 := 0x4F }
    running s ∧ s.ctl = .rTokchk ∧ running { s with tok1 := 0x4E } := by decide
theorem witness_DataByteEdges :
    let s : State := { readingLast with ctl := .rSend, txValid := true }
    running s ∧ s.ctl = .rSend ∧ s.txValid = true ∧ s.txReady = true ∧ { s with txValid := false }.txValid = false := by
  decide
theorem witness_PayloadByteEdge :
    let s := { receiving .wRecv [0x5A] with mode := modeWrite }
    running s ∧ s.ctl = .wRecv ∧ s.rxReady = true ∧ s.hostRx = 0x5A :: [] := by decide
/-- A Status whose host accepts nothing, and accepts after all. -/
theorem witness_CommandResumesAfterWait :
    running deaf ∧ deaf.txValid = false ∧ deaf.busPhase = .idle ∧ (deaf.txReady = true → true = true) ∧
      exec .status deaf = .next (offering .sOk .ok 0x4F { deaf with op := 0x53 }) ∧
      ∃ u, exec .status { deaf with hostRx := deaf.hostRx ++ [0x00], txReady := true } = .next u :=
  ⟨by decide, rfl, rfl, fun _ => rfl, rfl, _, rfl⟩

end Sys2Proof.Tests
end

section
/-! PROOFS. The electrical levels of the enable pins (10_state.md R31). -/

namespace Sys2Proof.Machine

theorem sramOe_eq_xor (s : State) : sramOe s = (s.oeAct ^^ s.cfg.enableActiveLow) := rfl

theorem sramWe_eq_xor (s : State) : sramWe s = (s.weAct ^^ s.cfg.enableActiveLow) := rfl

/-- The default polarity, as a fact about the state at reset (00_scope.md R7). -/
@[simp] theorem reset_enableActiveLow : State.reset.cfg.enableActiveLow = true := rfl

/-- Settles O35: the two pin equations at either polarity, and the default build's polarity. -/
theorem electricalLevels : Obligations.ElectricalLevels :=
  fun s => ⟨sramOe_eq_xor s, sramWe_eq_xor s, reset_enableActiveLow⟩

end Sys2Proof.Machine
end

section
/-! PROOFS. The decoder on the frames of format `F_RW` (30_encoding.md R91, R95, R99). -/

namespace Sys2Proof

/-- After the marker, the instruction byte decides (30_encoding.md R91, R94). -/
theorem decode_syncMarker (op : Byte) (rest : List Byte) : decode (syncMarker ++ op :: rest) = decodeOp op rest := by
  simp [decode, syncMarker]

theorem decodeOp_read (rest : List Byte) : decodeOp opRead rest = decodeRange .read rest := by
  simp [decodeOp, opStatus, opRead]

theorem decodeOp_write (rest : List Byte) : decodeOp opWrite rest = decodeRange .write rest := by
  simp [decodeOp, opStatus, opRead, opWrite]

theorem decodeRange_cons (make : Addr → Addr → Instr) (s2 s1 s0 e2 e1 e0 : Byte) (rest : List Byte) :
    decodeRange make (s2 :: s1 :: s0 :: e2 :: e1 :: e0 :: rest) =
      .ok (make (assembleAddr s2 s1 s0) (assembleAddr e2 e1 e0), rest) := rfl

theorem decode_readFrame (s2 s1 s0 e2 e1 e0 : Byte) (rest : List Byte) :
    decode (syncMarker ++ opRead :: s2 :: s1 :: s0 :: e2 :: e1 :: e0 :: rest) =
      .ok (.read (assembleAddr s2 s1 s0) (assembleAddr e2 e1 e0), rest) := by
  rw [decode_syncMarker, decodeOp_read, decodeRange_cons]

theorem decode_writeFrame (s2 s1 s0 e2 e1 e0 : Byte) (rest : List Byte) :
    decode (syncMarker ++ opWrite :: s2 :: s1 :: s0 :: e2 :: e1 :: e0 :: rest) =
      .ok (.write (assembleAddr s2 s1 s0) (assembleAddr e2 e1 e0), rest) := by
  rw [decode_syncMarker, decodeOp_write, decodeRange_cons]

/-- Settles O7: both frames decode to the assembled addresses, whose values are `assembleAddr_toNat`. -/
theorem addressFieldsBigEndian : Obligations.AddressFieldsBigEndian :=
  fun b5 b6 b7 b8 b9 b10 rest =>
    ⟨assembleAddr b5 b6 b7, assembleAddr b8 b9 b10,
      assembleAddr_toNat b5 b6 b7, assembleAddr_toNat b8 b9 b10,
      decode_readFrame b5 b6 b7 b8 b9 b10 rest, decode_writeFrame b5 b6 b7 b8 b9 b10 rest⟩

end Sys2Proof
end

section
/-! PROOFS. The bus mode controller's registers: what a mode entry leaves in them, and which clock edges change them
(41_bus_mode_controller.md R152 to R154, R167). -/

namespace Sys2Proof.Machine

open Sys2Proof.Safety

/-! ## The registers -/

/-- The registers of the bus mode controller: the mode, the direction and the two enables. -/
structure BusRegs where
  mode : BitVec 2
  dOe : Bool
  oeAct : Bool
  weAct : Bool

/-- The bus mode controller's registers in a state of the machine. -/
def busRegs (s : State) : BusRegs := ⟨s.mode, s.dOe, s.oeAct, s.weAct⟩

/-! ## Mode entries -/

/-- From any state, a mode entry sets all four registers. -/
theorem busRegs_enterMode (m : BitVec 2) (d : Bool) (s : State) : busRegs (enterMode m d s) = ⟨m, d, false, false⟩ := rfl

/-- The event of releasing the data lines. -/
theorem pinEvent_dOe_release (d : Bool) :
    pinEvent (d != false) (.dOe false) = if d = true then [.pin (.dOe false)] else [] := by
  cases d <;> rfl

/-- The event of driving the data lines. -/
theorem pinEvent_dOe_drive (d : Bool) :
    pinEvent (d != true) (.dOe true) = if d = true then [] else [.pin (.dOe true)] := by
  cases d <;> rfl

/-- ENTER_IDLE and ENTER_READ with both enables inactive. -/
theorem enterMode_release_of_inactive (m : BitVec 2) {s : State} (ho : s.oeAct = false) (hw : s.weAct = false) :
    enterMode m false s = { s with
      mode := m
      dOe := false
      trace := s.trace ++ if s.dOe = true then [.pin (.dOe false)] else [] } := by
  rw [enterMode_of_inactive m false ho hw, pinEvent_dOe_release]

/-- ENTER_WRITE with both enables inactive. -/
theorem enterMode_drive_of_inactive (m : BitVec 2) {s : State} (ho : s.oeAct = false) (hw : s.weAct = false) :
    enterMode m true s = { s with
      mode := m
      dOe := true
      trace := s.trace ++ if s.dOe = true then [] else [.pin (.dOe true)] } := by
  rw [enterMode_of_inactive m true ho hw, pinEvent_dOe_drive]

/-- Settles O33: the entries are `enterMode` at their modes and directions. -/
theorem modeEntries : Obligations.ModeEntries :=
  fun _ =>
    ⟨⟨rfl, rfl, rfl, rfl⟩, ⟨rfl, rfl, rfl, rfl⟩, ⟨rfl, rfl, rfl, rfl⟩, fun ho hw =>
      ⟨enterMode_release_of_inactive modeIdle ho hw, enterMode_release_of_inactive modeRead ho hw,
        enterMode_drive_of_inactive modeWrite ho hw⟩⟩

/-! ## Edges that keep the registers

An operation with a continuation keeps them if its continuation does. -/

theorem busRegs_tickRx {store : Byte → State → State} {s : State}
    (h : ∀ b u, busRegs (store b u) = busRegs u) :
    busRegs (tickRx store s) = busRegs s := by
  unfold tickRx
  split
  · split
    · rfl
    · exact h ..
  · rfl

theorem busRegs_tickTx {b : Byte} {next : State → State} {s : State} (h : ∀ u, busRegs (next u) = busRegs u) :
    busRegs (tickTx b next s) = busRegs s := by
  unfold tickTx
  split
  · split
    · exact h _
    · rfl
  · rfl

theorem busRegs_tickEmit {f : FrameKind} {next : State → State} {s : State}
    (h : ∀ u, busRegs (next u) = busRegs u) :
    busRegs (tickEmit f next s) = busRegs s := by
  unfold tickEmit
  split
  · split
    · split
      · rfl
      · exact h _
    · rfl
  · rfl

theorem busRegs_tickSettle {next : State → State} {s : State} (h : ∀ u, busRegs (next u) = busRegs u) :
    busRegs (tickSettle next s) = busRegs s := by
  unfold tickSettle
  split
  · exact h _
  · rfl

theorem busRegs_nextBit (s : State) : busRegs (nextBit s) = busRegs s := by
  unfold nextBit
  split <;> rfl

/-- SERIALIZE moves only the serial lines (40_address_serializer.md R130). -/
theorem busRegs_tickSerialize (s : State) : busRegs (tickSerialize s) = busRegs s := by
  cases hp : s.serPhase <;> simp only [tickSerialize, hp]
  case data | rise | fall => rfl
  case settleData | settleRise => exact busRegs_tickSettle fun _ => rfl
  case settleFall => exact busRegs_tickSettle busRegs_nextBit

theorem busRegs_addressDone (s : State) : busRegs (addressDone s) = busRegs s := by
  unfold addressDone
  split <;> rfl

theorem busRegs_tickAddress (s : State) : busRegs (tickAddress s) = busRegs s := by
  rw [tickAddress_eq, busRegs_addressDone, busRegs_tickSerialize]

theorem busRegs_readHead (s : State) : busRegs (readHead s) = busRegs s := by
  unfold readHead
  split
  · split <;> rfl
  · rfl

theorem busRegs_writeHead (s : State) : busRegs (writeHead s) = busRegs s := by
  unfold writeHead
  split
  · split <;> rfl
  · rfl

theorem busRegs_readNext (s : State) : busRegs (readNext s) = busRegs s := by
  have hhead : busRegs (readHead { s with idx := s.idx + 1 }) = busRegs s := busRegs_readHead _
  simp only [readNext]
  split
  · exact hhead
  · exact hhead

theorem busRegs_storeAddrByte (k : Fin 6) (b : Byte) (s : State) : busRegs (storeAddrByte k b s) = busRegs s := by
  unfold storeAddrByte
  split <;> rfl

/-- The entry of an abort leaves the pins to its end (60_exceptions.md R307). -/
theorem busRegs_beginAbort (c : Cause) (v : Option Addr) (s : State) : busRegs (beginAbort c v s) = busRegs s := rfl

theorem busRegs_afterErrorFrame (s : State) : busRegs (afterErrorFrame s) = busRegs s := by
  unfold afterErrorFrame
  split <;> rfl

theorem busRegs_dispatchOp (s : State) : busRegs (dispatchOp s) = busRegs s := by
  unfold dispatchOp
  split
  · rfl
  · split
    · rfl
    · split
      · rfl
      · exact busRegs_beginAbort ..

theorem busRegs_tickToken (s : State) : busRegs (tickToken s) = busRegs s := by
  unfold tickToken
  split
  · rfl
  · exact busRegs_beginAbort ..

theorem busRegs_tickCheck {s t : State} (h : tickCheck s = .go t) : busRegs t = busRegs s := by
  unfold tickCheck at h
  split at h
  · cases h; exact busRegs_beginAbort ..
  · split at h
    · cases h; rfl
    · split at h <;> cases h
      rfl

/-! ## What one edge can do to the registers -/

/-- The labels of the mode entries (41_bus_mode_controller.md R167). -/
abbrev entersMode (c : Ctl) : Prop := c = .rEnter ∨ c = .wEnter ∨ c = .doneIdle ∨ c = .errIdle

/-- What a clock edge from `s` to `t` can do to the bus mode controller's registers (41_bus_mode_controller.md R167). -/
inductive BusEdge (s t : State) : Prop
  /-- It leaves them. -/
  | keeps (h : busRegs t = busRegs s)
  /-- It is a mode entry. -/
  | entry (hc : entersMode s.ctl) (m : BitVec 2) (d : Bool) (h : busRegs t = ⟨m, d, false, false⟩)
  /-- Inside READ_BYTE, it writes output-enable. -/
  | outputEnable (hc : s.ctl = .rRead) (hb : s.busPhase ≠ .idle) (v : Bool)
      (h : busRegs t = { busRegs s with oeAct := v })
  /-- Inside WRITE_BYTE, it writes write-enable. -/
  | writeEnable (hc : s.ctl = .wWrite) (hb : s.busPhase ≠ .idle) (v : Bool)
      (h : busRegs t = { busRegs s with weAct := v })

theorem BusEdge.keeps_of_go {s t u : State} (h : Flow.go u = .go t) (hu : busRegs u = busRegs s) : BusEdge s t := by
  cases h; exact .keeps hu

theorem BusEdge.entry_of_go {s t u : State} (h : Flow.go u = .go t) (hc : entersMode s.ctl) {m : BitVec 2} {d : Bool}
    (hu : busRegs u = ⟨m, d, false, false⟩) : BusEdge s t := by
  cases h; exact .entry hc m d hu

/-- READ_BYTE writes output-enable at ASSERT and DEASSERT only (41_bus_mode_controller.md R156). -/
theorem busEdge_tickRead {s t : State} (hc : s.ctl = .rRead) (h : tickRead s = .go t) : BusEdge s t := by
  cases hb : s.busPhase <;> simp only [tickRead, hb] at h
  case idle =>
    split at h
    · exact .keeps_of_go h rfl
    · cases h
  case serialize => exact .keeps_of_go h (busRegs_tickAddress s)
  case settleAddr | settleEnable => exact .keeps_of_go h (busRegs_tickSettle fun _ => rfl)
  case assertEnable => cases h; exact .outputEnable hc (by simp [hb]) true rfl
  case sample => exact .keeps_of_go h rfl
  case deassert => cases h; exact .outputEnable hc (by simp [hb]) false rfl
  case drive | settleHold => cases h

/-- WRITE_BYTE writes write-enable at ASSERT and DEASSERT only (41_bus_mode_controller.md R158). -/
theorem busEdge_tickWrite {s t : State} (hc : s.ctl = .wWrite) (h : tickWrite s = .go t) : BusEdge s t := by
  cases hb : s.busPhase <;> simp only [tickWrite, hb] at h
  case idle =>
    split at h
    · exact .keeps_of_go h rfl
    · cases h
  case serialize => exact .keeps_of_go h (busRegs_tickAddress s)
  case settleAddr | settleEnable => exact .keeps_of_go h (busRegs_tickSettle fun _ => rfl)
  case drive => exact .keeps_of_go h rfl
  case assertEnable => cases h; exact .writeEnable hc (by simp [hb]) true rfl
  case deassert => cases h; exact .writeEnable hc (by simp [hb]) false rfl
  case settleHold => exact .keeps_of_go h (busRegs_tickSettle fun _ => busRegs_writeHead _)
  case sample => cases h

/-- Every clock edge, from any state, is one of the four forms. -/
theorem busEdge_tick {s t : State} (h : tick s = .go t) : BusEdge s t := by
  cases hc : s.ctl <;> simp only [tick, hc] at h
  case sync | rToken0 | rToken1 | wRecv => exact .keeps_of_go h (busRegs_tickRx fun _ _ => rfl)
  case instr => exact .keeps_of_go h (busRegs_tickRx fun _ _ => busRegs_dispatchOp _)
  case addr k => exact .keeps_of_go h (busRegs_tickRx fun b u => busRegs_storeAddrByte k b u)
  case check => exact .keeps (busRegs_tickCheck h)
  case sOk | wGrant | doneOk => exact .keeps_of_go h (busRegs_tickEmit fun _ => rfl)
  case rEnter => exact .entry_of_go h (by simp [entersMode, hc]) (busRegs_enterMode modeRead false s)
  case rAnnounce => exact .keeps_of_go h (busRegs_tickEmit fun _ => busRegs_readHead _)
  case rTokchk => exact .keeps_of_go h (busRegs_tickToken s)
  case rRead => exact busEdge_tickRead hc h
  case rSend => exact .keeps_of_go h (busRegs_tickTx busRegs_readNext)
  case wEnter =>
    exact .entry_of_go h (by simp [entersMode, hc]) ((busRegs_writeHead _).trans (busRegs_enterMode modeWrite true s))
  case wWrite => exact busEdge_tickWrite hc h
  case doneIdle | errIdle => exact .entry_of_go h (by simp [entersMode, hc]) (busRegs_enterMode modeIdle false s)
  case errEmit => exact .keeps_of_go h (busRegs_tickEmit busRegs_afterErrorFrame)

/-! ## The enables between transactions -/

theorem oeAct_inactive_of_inv {s : State} (hi : Inv s) (hc : s.ctl ≠ .rRead) : s.oeAct = false :=
  Bool.eq_false_iff.2 fun h => hc (hi.outputEnable h).1

theorem weAct_inactive_of_inv {s : State} (hi : Inv s) (hc : s.ctl ≠ .wWrite) : s.weAct = false :=
  Bool.eq_false_iff.2 fun h => hc (hi.writeEnable h).1

/-- Settles O34, by the form of the edge. A mode entry also writes both enables; the invariant has them inactive there
already. -/
theorem pinsChangeOnlyInTheirOperations : Obligations.PinsChangeOnlyInTheirOperations := by
  intro s t hi h
  cases busEdge_tick h with
  | keeps h =>
    obtain ⟨hm, hd, ho, hw⟩ := BusRegs.mk.inj h
    exact ⟨absurd hd, absurd hm, absurd ho, absurd hw⟩
  | entry hc m d h =>
    have ho : s.oeAct = false := oeAct_inactive_of_inv hi (by intro hr; simp [entersMode, hr] at hc)
    have hw : s.weAct = false := weAct_inactive_of_inv hi (by intro hr; simp [entersMode, hr] at hc)
    obtain ⟨-, -, hto, htw⟩ := BusRegs.mk.inj h
    exact ⟨fun _ => hc, fun _ => hc, absurd (hto.trans ho.symm), absurd (htw.trans hw.symm)⟩
  | outputEnable hc hb v h =>
    obtain ⟨hm, hd, -, hw⟩ := BusRegs.mk.inj h
    exact ⟨absurd hd, absurd hm, fun _ => ⟨hc, hb⟩, absurd hw⟩
  | writeEnable hc hb v h =>
    obtain ⟨hm, hd, ho, -⟩ := BusRegs.mk.inj h
    exact ⟨absurd hd, absurd hm, absurd ho, fun _ => ⟨hc, hb⟩⟩

end Sys2Proof.Machine
end

section
/-! PROOFS. The steps of a CORE that executes `RxByte()` (10_state.md R28; log entries 13 and 14), and the edges of the
framer's labels (42_command_framer.md). -/

namespace Sys2Proof.Machine

open Sys2Proof.Safety

/-! ## The framer's labels -/

theorem tick_sync {s : State} {k : Fin 4} (hc : s.ctl = .sync k) :
    tick s = .go (tickRx (fun b s => { s with ctl := syncNext s.cfg.syncRetest k b }) s) := by simp only [tick, hc]

theorem tick_instr {s : State} (hc : s.ctl = .instr) :
    tick s = .go (tickRx (fun b s => dispatchOp { s with op := b }) s) := by simp only [tick, hc]

theorem tick_addr {s : State} {k : Fin 6} (hc : s.ctl = .addr k) :
    tick s = .go (tickRx (fun b s => { storeAddrByte k b s with ctl := addrNext k }) s) := by simp only [tick, hc]

theorem tick_check {s : State} (hc : s.ctl = .check) : tick s = tickCheck s := by simp only [tick, hc]

/-! ## Steps of `RxByte()` -/

/-- At SYNC0 nothing is fetched while the host's bytes are no whole frame. -/
theorem fetch_of_not_decodes {s : State} (h : ∀ r, decode s.hostRx ≠ .ok r) : fetch s = none := by
  unfold fetch
  split
  · split
    · exact absurd ‹_› (h _)
    · rfl
  · rfl

section
variable {store : Byte → State → State} {s : State}

/-- The first edge raises `rx_ready`. -/
theorem step_rx_raise (hr : running s) (hf : fetch s = none) (ht : tick s = .go (tickRx store s))
    (hx : s.rxReady = false) : step s = .next { s with rxReady := true } := by
  rw [step_eq_tick hr hf, ht, outcome_go]
  simp [tickRx, hx]

/-- With `rx_ready` raised and a byte offered, the edge takes it and writes the register. -/
theorem step_rx_take (hr : running s) (hf : fetch s = none) (ht : tick s = .go (tickRx store s))
    (hx : s.rxReady = true) {b : Byte} {q : List Byte} (hq : s.hostRx = b :: q) :
    step s = .next (store b (acceptByte b q s)) := by
  rw [step_eq_tick hr hf, ht, outcome_go]
  simp [tickRx, hx, hq]

/-- With `rx_ready` raised and nothing offered, the CORE waits. -/
theorem step_rx_wait (hr : running s) (hf : fetch s = none) (ht : tick s = .go (tickRx store s))
    (hx : s.rxReady = true) (hq : s.hostRx = []) : step s = .next s := by
  rw [step_eq_tick hr hf, ht, outcome_go]
  simp [tickRx, hx, hq]

end

/-- A state that a step leaves as it is stays for any number of steps. -/
theorem run_of_step_self {s : State} (h : step s = .next s) (n : Nat) : run n s = .next s := by
  induction n with
  | zero => rfl
  | succ n ih => rw [run_succ_next n h, ih]

end Sys2Proof.Machine
end

section
/-! PROOFS. The address bytes of a range command (42_command_framer.md R186). -/

namespace Sys2Proof.Machine

open Sys2Proof.Safety

/-- The label after `n` address bytes: ADDRn, and CHECK after all six. -/
def addrLabel (n : Nat) : Ctl := if h : n < 6 then .addr ⟨n, h⟩ else .check

theorem addrLabel_of_lt {n : Nat} (h : n < 6) : addrLabel n = .addr ⟨n, h⟩ := dif_pos h

theorem addrNext_eq_addrLabel : ∀ k : Fin 6, addrNext k = addrLabel (k + 1) := by decide

/-- `start` and `end` with address bytes `n`, `n + 1`, ... written. -/
def storeAddrBytes (n : Nat) : List Byte → State → State
  | [], s => s
  | b :: bs, s => storeAddrBytes (n + 1) bs (storeAddrByte (Fin.ofNat 6 n) b s)

theorem storeAddrBytes_cons {n : Nat} (h : n < 6) (b : Byte) (bs : List Byte) (s : State) :
    storeAddrBytes n (b :: bs) s = storeAddrBytes (n + 1) bs (storeAddrByte ⟨n, h⟩ b s) := by
  have hk : Fin.ofNat 6 n = ⟨n, h⟩ := Fin.ext (Nat.mod_eq_of_lt h)
  rw [storeAddrBytes, hk]

/-- An address byte goes into its place whatever the label and the link show, and leaves them. -/
theorem storeAddrByte_update (k : Fin 6) (b : Byte) (s : State) (c : Ctl) (r : Bool) (q : List Byte) (t : List Event) :
    storeAddrByte k b { s with ctl := c, rxReady := r, hostRx := q, trace := t } =
      { storeAddrByte k b s with ctl := c, rxReady := r, hostRx := q, trace := t } := by
  fin_cases k <;> rfl

theorem storeAddrBytes_update (n : Nat) (bs : List Byte) (s : State) (c : Ctl) (r : Bool) (q : List Byte)
    (t : List Event) :
    storeAddrBytes n bs { s with ctl := c, rxReady := r, hostRx := q, trace := t } =
      { storeAddrBytes n bs s with ctl := c, rxReady := r, hostRx := q, trace := t } := by
  induction bs generalizing n s with
  | nil => rfl
  | cons b bs ih => simp only [storeAddrBytes, storeAddrByte_update, ih]

theorem running_storeAddrByte (k : Fin 6) (b : Byte) {s : State} (h : running s) : running (storeAddrByte k b s) := by
  fin_cases k <;> exact h

theorem running_storeAddrBytes (n : Nat) (bs : List Byte) {s : State} (h : running s) :
    running (storeAddrBytes n bs s) := by
  induction bs generalizing n s with
  | nil => exact h
  | cons b bs ih => exact ih _ (running_storeAddrByte _ b h)

/-- Six address bytes fill both registers, whatever these held. -/
theorem storeAddrBytes_six (b0 b1 b2 b3 b4 b5 : Byte) (s : State) :
    storeAddrBytes 0 [b0, b1, b2, b3, b4, b5] s =
      { s with startAddr := assembleAddr b0 b1 b2, endAddr := assembleAddr b3 b4 b5 } := by
  simp [storeAddrBytes, storeAddrByte]

/-- One address byte takes two edges: `rx_ready` raised, the byte taken. -/
theorem run_addrByte {s : State} {k : Fin 6} {b : Byte} {q : List Byte} (hr : running s) (hc : s.ctl = .addr k)
    (hx : s.rxReady = false) (hq : s.hostRx = b :: q) :
    run 2 s = .next { storeAddrByte k b s with
      ctl := addrNext k, rxReady := false, hostRx := q, trace := s.trace ++ [.rx b] } := by
  have hf : ∀ r, fetch { s with rxReady := r } = none := fun _ => fetch_of_ctl (by simp [hc])
  have raised : step s = .next { s with rxReady := true } := step_rx_raise hr (hf s.rxReady) (tick_addr hc) hx
  have taken := step_rx_take (s := { s with rxReady := true }) hr (hf true) (tick_addr hc) rfl hq
  rw [run_succ_next 1 raised, run_one, taken]
  fin_cases k <;> rfl

/-- The bytes waiting in ADDRn are taken into the operands, two edges a byte. -/
theorem run_addrBytes (n : Nat) (bs rest : List Byte) {s : State} (hn : n + bs.length ≤ 6) (hr : running s)
    (hc : s.ctl = addrLabel n) (hx : s.rxReady = false) (hq : s.hostRx = bs ++ rest) :
    run (2 * bs.length) s = .next { storeAddrBytes n bs s with
      ctl := addrLabel (n + bs.length), rxReady := false, hostRx := rest, trace := s.trace ++ bs.map Event.rx } := by
  induction bs generalizing n s with
  | nil =>
    obtain rfl : s.hostRx = rest := hq
    simp [storeAddrBytes, ← hc, ← hx]
  | cons b bs ih =>
    rw [List.length_cons] at hn
    have hlt : n < 6 := by omega
    have first := run_addrByte hr (hc.trans (addrLabel_of_lt hlt)) hx (q := bs ++ rest) hq
    have others := ih (n + 1) (s := { storeAddrByte ⟨n, hlt⟩ b s with
        ctl := addrNext ⟨n, hlt⟩, rxReady := false, hostRx := bs ++ rest, trace := s.trace ++ [.rx b] })
      (by omega) (running_storeAddrByte ⟨n, hlt⟩ b hr) (addrNext_eq_addrLabel ⟨n, hlt⟩) rfl rfl
    rw [List.length_cons, Nat.mul_add_one, Nat.add_comm, run_add 2 _ first, others]
    simp [storeAddrBytes_cons hlt, storeAddrBytes_update, Nat.add_assoc, Nat.add_comm 1]

/-- With nothing waiting in ADDRk, `rx_ready` is raised, and no further step changes anything. -/
theorem addr_waits {s : State} {k : Fin 6} (hr : running s) (hc : s.ctl = .addr k) (hx : s.rxReady = false)
    (hq : s.hostRx = []) :
    step s = .next { s with rxReady := true } ∧
      ∀ n, run n { s with rxReady := true } = .next { s with rxReady := true } := by
  have hf : ∀ r, fetch { s with rxReady := r } = none := fun _ => fetch_of_ctl (by simp [hc])
  exact ⟨step_rx_raise hr (hf s.rxReady) (tick_addr hc) hx,
    run_of_step_self (step_rx_wait hr (hf true) (tick_addr hc) rfl hq)⟩

/-- Settles O11: the bytes waiting are taken by `run_addrBytes`; six of them fill both operands, and after fewer the
CORE waits at the next one's label. -/
theorem rangeOperandsReceived : Obligations.RangeOperandsReceived := by
  refine ⟨fun s b0 b1 b2 b3 b4 b5 rest hr hc hx hq => ?_, fun s bs h hr hc hx hq => ?_⟩
  · have all := run_addrBytes 0 [b0, b1, b2, b3, b4, b5] rest (by simp) hr hc hx hq
    rw [storeAddrBytes_six, ← hx] at all
    exact all
  · have taken := run_addrBytes 0 bs [] (by omega) hr hc hx (by simpa using hq)
    rw [Nat.zero_add, addrLabel_of_lt h] at taken
    obtain ⟨raised, waits⟩ := addr_waits (s := { storeAddrBytes 0 bs s with
        ctl := .addr ⟨bs.length, h⟩, rxReady := false, hostRx := [], trace := s.trace ++ bs.map Event.rx })
      (running_storeAddrBytes 0 bs hr) rfl rfl rfl
    exact ⟨_, (run_add _ 1 taken).trans ((run_one _).trans raised), rfl, rfl, rfl, rfl, waits⟩

end Sys2Proof.Machine
end

section
/-! PROOFS. The sync scan and the dispatch on the instruction byte (42_command_framer.md R182 to R184). -/

namespace Sys2Proof.Machine

open Sys2Proof.Safety

/-! ## The sync scan -/

/-- The label after the marker's byte `k`: the next one of the scan, INSTR after the last. -/
def syncAdvance (k : Fin 4) : Ctl := if h : k.val + 1 < 4 then .sync ⟨k.val + 1, h⟩ else .instr

/-- The marker's bytes (30_encoding.md R91). -/
theorem syncByte_toNat : ∀ k : Fin 4, (syncByte k).toNat = [0x53, 0x52, 0x41, 0x4D].getD k.val 0 := by decide

theorem eq_syncByte_iff (k : Fin 4) (b : Byte) :
    b = syncByte k ↔ b.toNat = [0x53, 0x52, 0x41, 0x4D].getD k.val 0 := by
  rw [← syncByte_toNat, BitVec.toNat_inj]

/-- The scan advances, or goes to SYNC1 by the retest, or starts over (42_command_framer.md R182, R183). -/
theorem syncNext_eq (retest : Bool) (k : Fin 4) (b : Byte) :
    syncNext retest k b =
      if b.toNat = [0x53, 0x52, 0x41, 0x4D].getD k.val 0 then syncAdvance k
      else if retest = true ∧ b = 0x53 then .sync 1
      else .sync 0 := by
  simp only [← eq_syncByte_iff]
  fin_cases k <;> simp [syncNext, syncAdvance, syncByte]

/-- Settles O8: the edge takes the byte, and its label is `syncNext`'s. -/
theorem syncScanByte : Obligations.SyncScanByte := by
  intro s k b rest hr hc hx hq hd
  have hf : fetch s = none := by
    by_cases hk : k = 0
    · exact fetch_of_not_decodes (hd hk)
    · exact fetch_of_ctl (by simpa [hc] using hk)
  have taken := step_rx_take hr hf (tick_sync hc) hx hq
  simp only [syncNext_eq] at taken
  exact taken

/-! ## The instruction byte -/

/-- The three known commands and the abort, by the instruction byte. -/
theorem dispatchOp_eq (s : State) :
    dispatchOp s = { s with
      ctl := if s.op = 0x53 then .sOk else if s.op = 0x52 ∨ s.op = 0x57 then .addr 0 else .errEmit
      cause := if s.op = 0x53 ∨ s.op = 0x52 ∨ s.op = 0x57 then s.cause else .unknownCmd } := by
  unfold dispatchOp opStatus opRead opWrite
  by_cases hs : s.op = 0x53
  · simp [hs]
  · by_cases hr : s.op = 0x52
    · simp [hr]
    · by_cases hw : s.op = 0x57
      · simp [hw]
      · simp only [hs, hr, hw, if_false, or_self]
        rfl

/-- Settles O10: the edge takes the byte into `op` and dispatches on it. -/
theorem dispatchOnInstructionByte : Obligations.DispatchOnInstructionByte := by
  intro s b rest hr hc hx hq
  have taken := step_rx_take hr (fetch_of_ctl (by simp [hc])) (tick_instr hc) hx hq
  rw [dispatchOp_eq] at taken
  exact taken

end Sys2Proof.Machine
end

section
/-! PROOFS. VALIDATE at CHECK (42_command_framer.md R188, R189). -/

namespace Sys2Proof.Machine

open Sys2Proof.Safety

theorem tickCheck_of_invalid {s : State} {c : Cause} {v : Option Addr}
    (h : validate s.startAddr s.endAddr = some (c, v)) : tickCheck s = .go (beginAbort c v s) := by
  rw [tickCheck, h]

theorem tickCheck_of_valid {s : State} (h : validate s.startAddr s.endAddr = none)
    (hop : s.op = 0x52 ∨ s.op = 0x57) :
    tickCheck s = .go { s with ctl := if s.op = 0x52 then .rEnter else .wEnter } := by
  rw [tickCheck, h]
  rcases hop with hop | hop <;> simp [hop, opRead, opWrite]

/-- Settles O12: the checks in their order; the first that fails decides. -/
theorem validationOrder : Obligations.ValidationOrder := by
  intro s hr hc hop
  have edge : step s = (tickCheck s).outcome := by
    rw [step_eq_tick hr (fetch_of_ctl (by simp [hc])), tick_check hc]
  rw [edge]
  by_cases hs : s.startAddr.toNat < 0x20000
  · by_cases he : s.endAddr.toNat ≤ 0x20000
    · by_cases ho : s.startAddr.toNat < s.endAddr.toNat
      · have valid : validate s.startAddr s.endAddr = none := by simp [validate, Config.memSize, hs, he, ho]
        simp [tickCheck_of_valid valid hop, hs, he, ho]
      · have order : validate s.startAddr s.endAddr = some (.rangeOrder, none) := by
          simp [validate, Config.memSize, hs, he, ho]
        simp [tickCheck_of_invalid order, beginAbort, hs, he, ho]
    · have endOob : validate s.startAddr s.endAddr = some (.endOob, some s.endAddr) := by
        simp [validate, Config.memSize, hs, he]
      simp [tickCheck_of_invalid endOob, beginAbort, hs, he]
  · have startOob : validate s.startAddr s.endAddr = some (.startOob, some s.startAddr) := by
      simp [validate, Config.memSize, hs]
    simp [tickCheck_of_invalid startOob, beginAbort, hs]

end Sys2Proof.Machine
end

section
/-! PROOFS. The commands that transfer nothing: Status (43_commands.md R212) and an unknown command (R224), with the
abort procedure between commands (60_exceptions.md R307). -/

namespace Sys2Proof.Machine

open Sys2Proof.Safety

/-! ## The commands as their pseudocode -/

theorem exec_status (s : State) :
    exec .status s =
      ((emit .ok { s with op := 0x53, ctl := .sOk }).andThen fun s => .go { s with ctl := .sync 0 }).outcome := rfl

theorem exec_unknown (op : Byte) (s : State) :
    exec (.unknown op) s = (raiseAbort .unknownCmd none { s with op := op }).outcome := rfl

theorem decodeOp_unknown {op : Byte} (hs : op ≠ opStatus) (hr : op ≠ opRead) (hw : op ≠ opWrite) (rest : List Byte) :
    decodeOp op rest = .ok (.unknown op, rest) := by
  simp [decodeOp, hs, hr, hw]

/-! ## Status -/

/-- OK with the sink ready (45_response_encoder.md R261). -/
theorem emit_ok_ready {s : State} (h : s.txReady = true) :
    emit .ok s = .go { s with
      txData := 0x4B
      txValid := false
      encFrame := none
      encPos := 0
      trace := s.trace ++ [.tx 0x4F, .tx 0x4B] } := emit_ready .ok h

/-- OK with the sink not ready. -/
theorem emit_ok_wait (c : Ctl) {s : State} (h : s.txReady = false) :
    emit .ok { s with ctl := c } = .stop (offering c .ok 0x4F s) := emit_wait .ok h

/-- Settles O13: the frame is sent whole and the scan starts again, or the command waits at the frame's first byte. -/
theorem statusAnswersOk : Obligations.StatusAnswersOk := by
  refine fun s => ⟨fun ready => ?_, fun busy => ?_⟩
  · rw [exec_status, emit_ok_ready (s := { s with op := 0x53, ctl := .sOk }) ready, go_andThen, outcome_go]
  · rw [exec_status, emit_ok_wait .sOk (s := { s with op := 0x53 }) busy, stop_andThen, outcome_stop]

/-! ## The abort procedure between commands -/

/-- NG with the sink ready (45_response_encoder.md R263); `tx_data` keeps the terminating 00. -/
theorem emitted_errorBytes (msg : List Byte) (s : State) :
    emitted (errorBytes msg) s = { s with
      txData := 0
      txValid := false
      encFrame := none
      encPos := 0
      trace := s.trace ++ (errorBytes msg).map Event.tx } := by
  have last : (errorBytes msg).getLastD s.txData = 0 := List.getLastD_concat ..
  have nonempty : errorBytes msg ≠ [] := by simp [errorBytes]
  rw [emitted, last, if_neg nonempty]

/-- ENTER_IDLE with the pins quiet moves no pin. -/
theorem enterIdle_of_quiet {s : State} (quiet : pinsQuiet s) : enterIdle s = { s with mode := modeIdle } := by
  obtain ⟨ho, hw, hd, -⟩ := quiet
  rw [enterIdle, enterMode_release_of_inactive modeIdle ho hw]
  simp [hd]

/-- With the pins quiet the return from an abort writes only the label, the cause and, in a build with `ABORT_TO_IDLE`,
the mode. -/
theorem abortReturn_of_quiet {s : State} (quiet : pinsQuiet s) :
    abortReturn s = { s with
      ctl := .sync 0, mode := if s.cfg.abortToIdle then modeIdle else s.mode, cause := .none } := by
  by_cases idle : s.cfg.abortToIdle = true
  · have entry : enterIdle { s with ctl := .errIdle } = { s with ctl := .errIdle, mode := modeIdle } :=
      enterIdle_of_quiet quiet
    simp [abortReturn, afterErrorFrame, abortIdle, idle, entry]
  · simp [abortReturn, afterErrorFrame, idle]

/-- Any abort with the sink ready and the pins quiet: the error frame of its cause, then MAIN. A value that the cause
reports stays in `cause_val`. -/
theorem raiseAbort_of_quiet (c : Cause) (v : Option Addr) {s : State} (ready : s.txReady = true) (quiet : pinsQuiet s) :
    raiseAbort c v s = .stop (afterAbort (message s.cfg c (v.getD s.causeVal))
      { s with causeVal := v.getD s.causeVal }) := by
  have frame : frameBytes .ng (beginAbort c v s) = errorBytes (message s.cfg c (v.getD s.causeVal)) := rfl
  have sentQuiet : pinsQuiet (emitted (frameBytes .ng (beginAbort c v s)) (beginAbort c v s)) := quiet
  rw [raiseAbort_ready c v ready, abortReturn_of_quiet sentQuiet, frame, emitted_errorBytes]
  rfl

/-- Settles O14: the byte decodes to the unknown command, whose abort reports no value. -/
theorem unknownAnswersError : Obligations.UnknownAnswersError := by
  refine fun s op rest hs hr hw => ⟨?_, fun ready quiet => ?_⟩
  · exact (decode_syncMarker op rest).trans (decodeOp_unknown hs hr hw rest)
  · rw [exec_unknown, raiseAbort_of_quiet .unknownCmd none (s := { s with op := op }) ready quiet, outcome_stop]
    rfl

end Sys2Proof.Machine
end

section
/-! PROOFS. Flow-control windows: where they begin and how many a range has (44_flow_control.md R241). -/

namespace Sys2Proof.Machine

open Sys2Proof.Safety

theorem atWindowStart_iff (i : Idx) : atWindowStart i = true ↔ i.toNat % 32 = 0 := by
  simp [atWindowStart, Config.windowSize]

/-- One more byte needs one more window exactly when its index begins one. -/
theorem windowCount_succ (n : Nat) : windowCount (n + 1) = windowCount n + if n % 32 = 0 then 1 else 0 := by
  unfold windowCount
  split_ifs <;> omega

/-- The indices below `n` that begin a window are as many as the windows of `n` bytes. -/
theorem length_windowStarts (n : Nat) : ((List.range n).filter fun i => i % 32 = 0).length = windowCount n := by
  induction n with
  | zero => rfl
  | succ n ih =>
    rw [List.range_succ, List.filter_append, List.length_append, ih, windowCount_succ]
    by_cases start : n % 32 = 0 <;> simp [start]

/-- A range with a window `w` is not empty, so its last index is `n - 1`. -/
theorem mem_window_iff {n w : Nat} (i : Nat) (h : w < windowCount n) :
    (i < n ∧ i / 32 = w) ↔ (32 * w ≤ i ∧ i ≤ min (32 * w + 31) (n - 1)) := by
  have nonempty : 0 < n := by unfold windowCount at h; omega
  omega

/-- Settles O42: the three claims are `atWindowStart_iff`, `length_windowStarts` and `mem_window_iff`. -/
theorem windowBoundaries : Obligations.WindowBoundaries :=
  ⟨atWindowStart_iff, length_windowStarts, fun _ i _ h => mem_window_iff i h⟩

/-! ## The tokens of a Read -/

theorem tokens_succ (w : Nat) : tokens (w + 1) = tokens w ++ coBytes := by
  induction w with
  | zero => rfl
  | succ w ih => rw [tokens, ih, ← List.append_assoc, ← tokens, ih]

/-- The tokens of `n + 1` bytes: those of `n` bytes, and one more where index `n` begins a window. -/
theorem tokens_windowCount_succ (n : Nat) :
    tokens (windowCount (n + 1)) = tokens (windowCount n) ++ if n % 32 = 0 then coBytes else [] := by
  rw [windowCount_succ]
  by_cases start : n % 32 = 0 <;> simp [start, tokens_succ]

end Sys2Proof.Machine
end

section
/-! PROOFS. Read: the announcement, the tokens, the indices read and sent, and the abort at a bad token
(43_commands.md R216; 44_flow_control.md R242, R243). -/

namespace Sys2Proof.Machine

open Sys2Proof.Safety

/-! ## The start of a Read -/

theorem exec_read (a b : Addr) (s : State) :
    exec (.read a b) s = (rangeCommand opRead a b readTransfer s).outcome := rfl

/-- CO with the sink ready (45_response_encoder.md R262). -/
theorem emit_co_ready {s : State} (ready : s.txReady = true) :
    emit .co s = .go { s with
      txData := 0x4F
      txValid := false
      encFrame := none
      encPos := 0
      trace := s.trace ++ coBytes.map Event.tx } := emit_ready .co ready

/-- ENTER_READ with the pins quiet moves no pin. -/
theorem enterRead_of_quiet {s : State} (quiet : pinsQuiet s) : enterRead s = { s with mode := modeRead } := by
  obtain ⟨ho, hw, hd, -⟩ := quiet
  rw [enterRead, enterMode_release_of_inactive modeRead ho hw]
  simp [hd]

/-- A range that passes validation goes on with its transfer (43_commands.md R216, R220). -/
theorem rangeCommand_of_valid (op : Byte) {a b : Addr} (transfer : State → Flow) (s : State)
    (range : validRange a b) :
    rangeCommand op a b transfer s =
      (transfer { s with op := op, startAddr := a, endAddr := b, ctl := .check }).andThen finishTransfer := by
  rw [rangeCommand, (validate_eq_none a b).mpr range]

/-- A valid Read with the sink ready announces itself and goes through its indices. -/
theorem exec_read_of_valid {s : State} {a b : Addr} (ready : s.txReady = true) (quiet : pinsQuiet s)
    (range : validRange a b) :
    exec (.read a b) s =
      ((readElements (b.toNat - a.toNat) { readStarted a b s with ctl := .rAnnounce }).andThen
        finishTransfer).outcome := by
  let entering : State := { s with op := opRead, startAddr := a, endAddr := b, ctl := .rEnter }
  have entered : enterRead entering = { entering with mode := modeRead } := enterRead_of_quiet quiet
  have announced := emit_co_ready (s := { entering with mode := modeRead, ctl := .rAnnounce }) ready
  have transfer : readTransfer { entering with ctl := .check } =
      readElements (b.toNat - a.toNat) { readStarted a b s with ctl := .rAnnounce } := by
    change (emit .co { enterRead entering with ctl := .rAnnounce }).andThen readWindows = _
    rw [entered, announced]
    rfl
  rw [exec_read, rangeCommand_of_valid opRead readTransfer s range]
  exact congrArg (fun f : Flow => (f.andThen finishTransfer).outcome) transfer

/-! ## One token -/

/-- A Read with both bytes of a token received, to be compared. -/
def tokenReceived (t0 t1 : Byte) (q : List Byte) (s : State) : State :=
  { s with
    ctl := .rTokchk
    tok0 := t0
    tok1 := t1
    rxReady := false
    hostRx := q
    trace := s.trace ++ [.rx t0, .rx t1] }

theorem tokenMatches_iff (t0 t1 : Byte) : tokenMatches t0 t1 = true ↔ t0 = 0x43 ∧ t1 = 0x4F := by
  simp [tokenMatches]

/-- Both token bytes are received before they are compared (44_flow_control.md R243). -/
theorem readToken_cons {s : State} {t0 t1 : Byte} {q : List Byte} (hq : s.hostRx = t0 :: t1 :: q) :
    readToken s =
      if tokenMatches t0 t1 then .go (tokenReceived t0 t1 q s)
      else raiseAbort .flowDesync none (tokenReceived t0 t1 q s) := by
  simp [readToken, rxByte, hq, acceptByte, tokenReceived]

/-- A good token is taken and the window goes on. -/
theorem readToken_good {s : State} {q : List Byte} (hq : s.hostRx = coBytes ++ q) :
    readToken s = .go (tokenReceived 0x43 0x4F q s) := readToken_cons hq

/-- A bad token aborts the Read, whichever of its bytes is wrong. -/
theorem readToken_bad {s : State} {t0 t1 : Byte} {q : List Byte} (ready : s.txReady = true) (quiet : pinsQuiet s)
    (bad : ¬ (t0 = 0x43 ∧ t1 = 0x4F)) (hq : s.hostRx = t0 :: t1 :: q) :
    readToken s = .stop (afterAbort s.cfg.msgFlowDesync (tokenReceived t0 t1 q s)) := by
  have mismatch : ¬ tokenMatches t0 t1 = true := mt (tokenMatches_iff t0 t1).mp bad
  rw [readToken_cons hq, if_neg mismatch]
  exact raiseAbort_of_quiet .flowDesync none (s := tokenReceived t0 t1 q s) ready quiet

/-! ## One index -/

/-- What comes before the transaction of an index: a token, if the index begins a window. -/
def beforeByte (s : State) : Flow := if atWindowStart s.idx then readToken s else .go s

/-- The byte of an index: READ_BYTE, then the byte sent (44_flow_control.md R242). -/
def readAndSend (s : State) : Flow :=
  (readByte (byteAddr s) { s with ctl := .rRead }).andThen fun s =>
  (txByte s.data { s with ctl := .rSend }).andThen fun s =>
  .go { s with idx := s.idx + 1 }

theorem readElement_eq (s : State) : readElement s = (beforeByte s).andThen readAndSend := rfl

/-- The byte of an index in READ, the sink ready. -/
theorem readAndSend_eq {s : State} (ready : s.txReady = true) (mode : s.mode = modeRead) (clock : s.srClk = false)
    (enable : s.oeAct = false) :
    readAndSend s = .go { s with
      ctl := .rSend
      idx := s.idx + 1
      data := readByteValue (byteAddr s) s
      txData := readByteValue (byteAddr s) s
      txValid := false
      srData := (byteAddr s).getLsbD 0
      srClk := false
      oeAct := false
      serAddr := byteAddr s
      serBit := 0
      serPhase := .idle
      busPhase := .idle
      dly := 0
      chain := byteAddr s
      draws := if s.cfg.chip = .reference ∧ s.dOe = false then s.draws else s.draws + 1
      trace := s.trace ++ readByteEvents s.srData (byteAddr s) (readByteValue (byteAddr s) s) ++
        [.tx (readByteValue (byteAddr s) s)] } := by
  rw [readAndSend, readByte_eq (byteAddr s) (s := { s with ctl := .rRead }) mode clock enable, go_andThen,
    txByte_ready _ (by exact ready), go_andThen]
  rfl

/-! ## The indices of a Read, from its start -/

/-- A Read after its first `k` indices, at label `c`, with `q` in the host's channel. -/
def readAt (a : Addr) (k : Nat) (c : Ctl) (q : List Byte) (s : State) : State :=
  { readProgress a k s with ctl := c, hostRx := q }

@[simp] theorem readProgress_mode (a : Addr) (k : Nat) (s : State) : (readProgress a k s).mode = s.mode := by
  cases k <;> rfl
@[simp] theorem readProgress_startAddr (a : Addr) (k : Nat) (s : State) :
    (readProgress a k s).startAddr = s.startAddr := by cases k <;> rfl
@[simp] theorem readProgress_txReady (a : Addr) (k : Nat) (s : State) : (readProgress a k s).txReady = s.txReady := by
  cases k <;> rfl
@[simp] theorem readProgress_txValid (a : Addr) (k : Nat) (s : State) : (readProgress a k s).txValid = s.txValid := by
  cases k <;> rfl
@[simp] theorem readProgress_mem (a : Addr) (k : Nat) (s : State) : (readProgress a k s).mem = s.mem := by
  cases k <;> rfl
@[simp] theorem readProgress_cfg (a : Addr) (k : Nat) (s : State) : (readProgress a k s).cfg = s.cfg := by
  cases k <;> rfl
@[simp] theorem readProgress_dOe (a : Addr) (k : Nat) (s : State) : (readProgress a k s).dOe = s.dOe := by
  cases k <;> rfl
@[simp] theorem readProgress_srData (a : Addr) (k : Nat) (s : State) :
    (readProgress a k s).srData = dataLineBefore s.srData a k := by cases k <;> rfl
@[simp] theorem readProgress_draws (a : Addr) (k : Nat) (s : State) :
    (readProgress a k s).draws = if s.cfg.chip = .reference then s.draws else s.draws + k := by
  cases k with
  | zero => simp [readProgress]
  | succ k => rfl
@[simp] theorem readProgress_trace (a : Addr) (k : Nat) (s : State) :
    (readProgress a k s).trace = s.trace ++ readPayloadTrace s.srData a (sampledAt a s) k := by
  cases k with
  | zero => simp [readProgress, readPayloadTrace]
  | succ k => rfl

theorem readProgress_idx (a : Addr) (k : Nat) {s : State} (first : s.idx = 0) :
    (readProgress a k s).idx = BitVec.ofNat 18 k := by
  cases k with
  | zero => exact first
  | succ k => rfl

theorem pinsQuiet_readProgress (a : Addr) (k : Nat) {s : State} (quiet : pinsQuiet s) :
    pinsQuiet (readProgress a k s) := by
  cases k <;> exact quiet

theorem readPayloadTrace_succ (d : Bool) (a : Addr) (v : Nat → Byte) (k : Nat) :
    readPayloadTrace d a v (k + 1) = readPayloadTrace d a v k ++ ((if k % 32 = 0 then coBytes.map Event.rx else []) ++
      readByteEvents (dataLineBefore d a k) (a + BitVec.ofNat 24 k) (v k) ++ [Event.tx (v k)]) := by
  simp [readPayloadTrace, List.range_succ]

/-- One more index, from the progress before it. -/
theorem readProgress_succ (a : Addr) (k : Nat) (s : State) :
    readProgress a (k + 1) s = { readProgress a k s with
      idx := BitVec.ofNat 18 (k + 1)
      tok0 := 0x43
      tok1 := 0x4F
      data := sampledAt a s k
      rxReady := false
      txData := sampledAt a s k
      srData := (a + BitVec.ofNat 24 k).getLsbD 0
      serAddr := a + BitVec.ofNat 24 k
      serBit := 0
      serPhase := .idle
      busPhase := .idle
      dly := 0
      chain := a + BitVec.ofNat 24 k
      draws := if s.cfg.chip = .reference then (readProgress a k s).draws else (readProgress a k s).draws + 1
      trace := (readProgress a k s).trace ++ ((if k % 32 = 0 then coBytes.map Event.rx else []) ++
        readByteEvents (readProgress a k s).srData (a + BitVec.ofNat 24 k) (sampledAt a s k) ++
        [Event.tx (sampledAt a s k)]) } := by
  have drawn : (readProgress a (k + 1) s).draws =
      if s.cfg.chip = .reference then (readProgress a k s).draws else (readProgress a k s).draws + 1 := by
    simp only [readProgress_draws]
    split_ifs <;> rfl
  rw [← drawn, readProgress_trace, readProgress_srData, List.append_assoc, ← readPayloadTrace_succ]
  cases k <;> rfl

/-- A Read with the token of index `k` taken, if it begins a window, its transaction next. -/
def tokenTaken (a : Addr) (k : Nat) (c : Ctl) (q : List Byte) (s : State) : State :=
  { readAt a k (if k % 32 = 0 then .rTokchk else c) q s with
    tok0 := 0x43
    tok1 := 0x4F
    rxReady := false
    trace := (readProgress a k s).trace ++ if k % 32 = 0 then coBytes.map Event.rx else [] }

theorem atWindowStart_readAt (a : Addr) (k : Nat) (c : Ctl) (q : List Byte) {s : State} (first : s.idx = 0) :
    atWindowStart (readAt a k c q s).idx = true ↔ k % 32 = 0 := by
  have index : (readAt a k c q s).idx = BitVec.ofNat 18 k := readProgress_idx a k first
  rw [atWindowStart_iff, index, BitVec.toNat_ofNat]
  omega

/-- Before the transaction of index `k`: its token is taken; inside a window the token registers hold the last one. -/
theorem beforeByte_readAt (a : Addr) (k : Nat) (c : Ctl) (q : List Byte) {s : State} (first : s.idx = 0) :
    beforeByte (readAt a k c ((if k % 32 = 0 then coBytes else []) ++ q) s) = .go (tokenTaken a k c q s) := by
  rw [beforeByte]
  by_cases start : k % 32 = 0
  · rw [if_pos ((atWindowStart_readAt a k c _ first).mpr start), readToken_good (q := q) (by simp [readAt, start])]
    simp [tokenTaken, tokenReceived, readAt, start, coBytes]
  · rw [if_neg (mt (atWindowStart_readAt a k c _ first).mp start)]
    cases k with
    | zero => exact absurd rfl start
    | succ k => simp [tokenTaken, readAt, start, readProgress]

/-- The address of index `k`. -/
theorem byteAddr_of_idx {s : State} {a : Addr} {k : Nat} (start : s.startAddr = a) (index : s.idx = BitVec.ofNat 18 k)
    (small : k < 2 ^ 18) : byteAddr s = a + BitVec.ofNat 24 k := by
  rw [byteAddr, start, index, BitVec.setWidth_ofNat_of_le_of_lt (by omega) small]

/-- The chip's 17 address lines hold the whole address of an index inside the SRAM. -/
theorem chipLines_of_index {a : Addr} {k : Nat} (inside : a.toNat + k < Config.memSize) :
    ((a + BitVec.ofNat 24 k).extractLsb' 0 17).toNat = a.toNat + k := by
  unfold Config.memSize at inside
  simp only [BitVec.extractLsb'_toNat, BitVec.toNat_add, BitVec.toNat_ofNat, Nat.shiftRight_zero]
  omega

/-- What READ_BYTE samples for index `k` of a Read. -/
theorem readByteValue_tokenTaken {a : Addr} {k : Nat} (c : Ctl) (q : List Byte) {s : State} (released : s.dOe = false)
    (inside : a.toNat + k < Config.memSize) :
    readByteValue (a + BitVec.ofNat 24 k) (tokenTaken a k c q s) = sampledAt a s k := by
  by_cases reference : s.cfg.chip = .reference
  · simp [readByteValue, tokenTaken, readAt, sampledAt, released, reference, chipLines_of_index inside]
  · simp [readByteValue, tokenTaken, readAt, sampledAt, reference]

/-- A started Read with the sink ready and the pins quiet (43_commands.md R216). -/
structure ReadReady (a : Addr) (s : State) : Prop where
  ready : s.txReady = true
  quiet : pinsQuiet s
  mode : s.mode = modeRead
  start : s.startAddr = a
  first : s.idx = 0
  sent : s.txValid = false

theorem readReady_readStarted {s : State} (a b : Addr) (ready : s.txReady = true) (quiet : pinsQuiet s) :
    ReadReady a (readStarted a b s) := ⟨ready, quiet, rfl, rfl, rfl, rfl⟩

/-- One index of a Read: its token, if it begins a window, is taken, and its byte is read and sent. -/
theorem readElement_readAt {a : Addr} {k : Nat} (c : Ctl) (q : List Byte) {s : State} (h : ReadReady a s)
    (inside : a.toNat + k < Config.memSize) :
    readElement (readAt a k c ((if k % 32 = 0 then coBytes else []) ++ q) s) = .go (readAt a (k + 1) .rSend q s) := by
  have small : k < 2 ^ 18 := by unfold Config.memSize at inside; omega
  obtain ⟨enable, -, released, clock⟩ := pinsQuiet_readProgress a k h.quiet
  rw [readProgress_dOe] at released
  let t := tokenTaken a k c q s
  have ready : t.txReady = true := (readProgress_txReady a k s).trans h.ready
  have mode : t.mode = modeRead := (readProgress_mode a k s).trans h.mode
  have index : t.idx = BitVec.ofNat 18 k := readProgress_idx a k h.first
  have address : byteAddr t = a + BitVec.ofNat 24 k :=
    byteAddr_of_idx ((readProgress_startAddr a k s).trans h.start) index small
  have value : readByteValue (a + BitVec.ofNat 24 k) t = sampledAt a s k :=
    readByteValue_tokenTaken c q released inside
  rw [readElement_eq, beforeByte_readAt a k c q h.first, go_andThen, readAndSend_eq ready mode clock enable, address,
    value, index]
  have next : BitVec.ofNat 18 k + 1 = BitVec.ofNat 18 (k + 1) := (BitVec.ofNat_add k 1).symm
  rw [next, readAt, readProgress_succ]
  simp [t, tokenTaken, readAt, h.sent, enable, released, clock]

/-- The indices of a Read in two parts. -/
theorem readElements_add (j k : Nat) (s : State) :
    readElements (j + k) s = (readElements j s).andThen (readElements k) := by
  induction j generalizing s with
  | zero => rw [Nat.zero_add]; rfl
  | succ j ih =>
    rw [Nat.add_right_comm, readElements, readElements, andThen_assoc]
    exact congrArg _ (funext ih)

/-- The first `k` indices of a Read whose host sends the tokens of their windows and then `q`. -/
theorem readElements_readAt {a : Addr} (k : Nat) (c : Ctl) (q : List Byte) {s : State} (h : ReadReady a s)
    (inside : a.toNat + k ≤ Config.memSize) :
    readElements k (readAt a 0 c (tokens (windowCount k) ++ q) s) =
      .go (readAt a k (if k = 0 then c else .rSend) q s) := by
  induction k generalizing q with
  | zero => rfl
  | succ k ih =>
    rw [tokens_windowCount_succ, List.append_assoc, readElements_add, ih _ (by omega), go_andThen, readElements,
      readElement_readAt _ q h (by omega)]
    rfl

/-! ## The abort at a bad token -/

/-- At the beginning of a window a bad token leaves the Read, whatever indices are left. -/
theorem readElements_bad {s : State} {t0 t1 : Byte} {q : List Byte} (n : Nat) (ready : s.txReady = true)
    (quiet : pinsQuiet s) (start : atWindowStart s.idx = true) (bad : ¬ (t0 = 0x43 ∧ t1 = 0x4F))
    (hq : s.hostRx = t0 :: t1 :: q) :
    readElements (n + 1) s = .stop (afterAbort s.cfg.msgFlowDesync (tokenReceived t0 t1 q s)) := by
  rw [readElements, readElement_eq, beforeByte, if_pos start, readToken_bad ready quiet bad hq, stop_andThen,
    stop_andThen]

/-- Settles O20: the `w` windows before the bad token are read and sent, and the token leaves the Read. -/
theorem readDesyncAborts : Obligations.ReadDesyncAborts := by
  intro s a b w t0 t1 rest ready quiet range window bad host
  let u := readStarted a b s
  let v := readAt a (32 * w) (if 32 * w = 0 then .rAnnounce else .rSend) (t0 :: t1 :: rest) u
  have started : ReadReady a u := readReady_readStarted a b ready quiet
  obtain ⟨n, hn⟩ : ∃ n, b.toNat - a.toNat = 32 * w + (n + 1) :=
    ⟨b.toNat - a.toNat - 32 * w - 1, by unfold windowCount at window; omega⟩
  have windows : windowCount (32 * w) = w := by unfold windowCount; omega
  have before : readElements (32 * w) { u with ctl := .rAnnounce } = .go v := by
    have h := readElements_readAt (32 * w) .rAnnounce (t0 :: t1 :: rest) started
      (by obtain ⟨below, inside⟩ := range; omega)
    rw [windows, ← host] at h
    exact h
  have abort : readElements (n + 1) v = .stop (afterAbort v.cfg.msgFlowDesync (tokenReceived t0 t1 rest v)) :=
    readElements_bad n ((readProgress_txReady a (32 * w) u).trans started.ready)
      (pinsQuiet_readProgress a (32 * w) started.quiet)
      ((atWindowStart_readAt a (32 * w) _ _ started.first).mpr (by omega)) bad rfl
  have build : v.cfg = s.cfg := readProgress_cfg a (32 * w) u
  rw [exec_read_of_valid ready quiet range, hn, readElements_add, before, go_andThen, abort, stop_andThen, outcome_stop,
    build]
  rfl

end Sys2Proof.Machine
end

section
/-! PROOFS. The response encoder (45_response_encoder.md): an Error frame's terminator (R264) and the digits of `DEC` (R272). -/

namespace Sys2Proof.Machine

open Sys2Proof.Safety

/-! ## The Error frame -/

theorem frameBytes_ng (s : State) :
    frameBytes .ng s = errorBytes (message s.cfg s.cause s.causeVal) := rfl

@[simp] theorem length_errorBytes (msg : List Byte) : (errorBytes msg).length = 3 + msg.length := by
  simp only [errorBytes, List.length_append, List.length_cons, List.length_nil]
  omega

@[simp] theorem getLast?_errorBytes (msg : List Byte) : (errorBytes msg).getLast? = some 0x00 :=
  List.getLast?_concat

/-- The terminator of an Error frame is its only `0x00` beside those of the message. -/
theorem count_zero_errorBytes (msg : List Byte) : (errorBytes msg).count 0x00 = msg.count 0x00 + 1 := by
  have marker : List.count (0x00 : Byte) [0x4E, 0x47] = 0 := by decide
  rw [errorBytes, List.count_append, List.count_append, marker, Nat.zero_add, List.count_singleton_self]

/-- Settles O39: the three frames as they are, and the last byte of an Error frame as its only `0x00`. -/
theorem errorFrameTermination : Obligations.ErrorFrameTermination := by
  intro s
  refine ⟨rfl, rfl, rfl, fun noZero => ?_⟩
  rw [frameBytes_ng, count_zero_errorBytes, List.count_eq_zero_of_not_mem noZero]
  exact ⟨rfl, getLast?_errorBytes _, length_errorBytes _⟩

/-! ## Decimal digits -/

theorem decDigits_of_lt_ten (fuel : Nat) {n : Nat} (h : n < 10) :
    decDigits (fuel + 1) n = [BitVec.ofNat 8 (0x30 + n)] := if_pos h

theorem decDigits_of_ten_le (fuel : Nat) {n : Nat} (h : 10 ≤ n) :
    decDigits (fuel + 1) n = decDigits fuel (n / 10) ++ [BitVec.ofNat 8 (0x30 + n % 10)] := if_neg (by omega)

/-- The ASCII byte of a digit. -/
theorem digitByte_toNat {d : Nat} (h : d < 10) : (BitVec.ofNat 8 (0x30 + d)).toNat = 0x30 + d := by
  rw [BitVec.toNat_ofNat]
  omega

theorem length_decDigits_le (fuel n : Nat) : (decDigits fuel n).length ≤ fuel := by
  induction fuel generalizing n with
  | zero => exact Nat.le_refl 0
  | succ fuel ih =>
    rcases Nat.lt_or_ge n 10 with small | large
    · rw [decDigits_of_lt_ten fuel small]
      exact Nat.succ_le_succ (Nat.zero_le fuel)
    · rw [decDigits_of_ten_le fuel large, List.length_append]
      exact Nat.succ_le_succ (ih (n / 10))

/-- The digits give back the value they were made from, where the fuel holds them all. -/
theorem decDigits_value {fuel n : Nat} (h : n < 10 ^ fuel) :
    (decDigits fuel n).foldl (fun m x => 10 * m + (x.toNat - 0x30)) 0 = n := by
  induction fuel generalizing n with
  | zero => exact (Nat.lt_one_iff.1 h).symm
  | succ fuel ih =>
    rcases Nat.lt_or_ge n 10 with small | large
    · rw [decDigits_of_lt_ten fuel small, List.foldl_cons, List.foldl_nil, digitByte_toNat small]
      omega
    · have quotient : n / 10 < 10 ^ fuel := by omega
      rw [decDigits_of_ten_le fuel large, List.foldl_append, ih quotient, List.foldl_cons, List.foldl_nil,
        digitByte_toNat (Nat.mod_lt n (by decide))]
      omega

/-- A value from `10 ^ k` on has more than `k` digits. -/
theorem lt_length_decDigits {fuel k n : Nat} (low : 10 ^ k ≤ n) (high : n < 10 ^ fuel) :
    k < (decDigits fuel n).length := by
  induction fuel generalizing k n with
  | zero => exact absurd (Nat.lt_of_le_of_lt low high) (Nat.not_lt.2 (Nat.one_le_pow k 10 (by decide)))
  | succ fuel ih =>
    rcases Nat.lt_or_ge n 10 with small | large
    · have first : k < 1 := (Nat.pow_lt_pow_iff_right (by decide : 1 < 10)).1 (Nat.lt_of_le_of_lt low small)
      rwa [decDigits_of_lt_ten fuel small]
    · rw [decDigits_of_ten_le fuel large, List.length_append]
      cases k with
      | zero => exact Nat.succ_pos _
      | succ k => exact Nat.succ_lt_succ (ih (by omega) (by omega))

/-- The first digit of a positive value is not 0. -/
theorem decDigits_head {fuel n : Nat} (pos : 0 < n) (high : n < 10 ^ fuel) :
    ∃ d, (decDigits fuel n).head? = some d ∧ d ≠ 0x30 := by
  induction fuel generalizing n with
  | zero => exact absurd high (Nat.not_lt.2 pos)
  | succ fuel ih =>
    rcases Nat.lt_or_ge n 10 with small | large
    · rw [decDigits_of_lt_ten fuel small]
      refine ⟨_, rfl, fun zero => ?_⟩
      have value : 0x30 + n = 0x30 := (digitByte_toNat small).symm.trans (congrArg BitVec.toNat zero)
      omega
    · obtain ⟨d, head, nonzero⟩ := ih (n := n / 10) (by omega) (by omega)
      rw [decDigits_of_ten_le fuel large, List.head?_append, head]
      exact ⟨d, rfl, nonzero⟩

theorem dec_zero : dec 0 = [0x30] := decDigits_of_lt_ten 7 (by decide)

/-- Eight digits hold every 24-bit value. -/
theorem toNat_lt_digits (v : Addr) : v.toNat < 10 ^ 8 := Nat.lt_trans v.isLt (by decide)

theorem toNat_pos_of_ne_zero {v : Addr} (nonzero : v ≠ 0) : 0 < v.toNat :=
  Nat.pos_of_ne_zero fun zero => nonzero (BitVec.eq_of_toNat_eq zero)

theorem dec_length_pos (v : Addr) : 1 ≤ (dec v).length := by
  by_cases zero : v = 0
  · rw [zero, dec_zero]
    exact Nat.le_refl 1
  · exact lt_length_decDigits (k := 0) (toNat_pos_of_ne_zero zero) (toNat_lt_digits v)

/-- Only the value 0 begins with the digit 0. -/
theorem dec_leading_zero {v : Addr} (lead : (dec v).head? = some 0x30) : dec v = [0x30] := by
  by_cases zero : v = 0
  · rw [zero, dec_zero]
  · obtain ⟨d, head, nonzero⟩ := decDigits_head (toNat_pos_of_ne_zero zero) (toNat_lt_digits v)
    exact absurd (Option.some.inj (head.symm.trans lead)) nonzero

/-- Settles O41: each property of the digits by induction on the digits still allowed, and 8 of them are enough. -/
theorem decimalDigits : Obligations.DecimalDigits :=
  ⟨fun v => ⟨fun _ digit => mem_decDigits digit, decDigits_value (toNat_lt_digits v), dec_length_pos v,
      length_decDigits_le 8 v.toNat, dec_leading_zero, fun large =>
        lt_length_decDigits (k := 5) (Nat.le_trans (by decide) large) (toNat_lt_digits v)⟩,
    dec_zero, by decide⟩

end Sys2Proof.Machine
end

section
/-! PROOFS. A range command with an invalid range (60_exceptions.md R302 to R304): VALIDATE's failing check and the abort
that replaces the transfer. -/

namespace Sys2Proof.Machine

open Sys2Proof.Safety

/-! ## The failing checks in their order (42_command_framer.md R188) -/

theorem validate_startOob {a : Addr} (b : Addr) (start : 0x20000 ≤ a.toNat) :
    validate a b = some (.startOob, some a) := if_pos (Nat.not_lt.2 start)

theorem validate_endOob {a b : Addr} (start : a.toNat < 0x20000) (stop : 0x20000 < b.toNat) :
    validate a b = some (.endOob, some b) :=
  (if_neg (not_not_intro start)).trans (if_pos (Nat.not_le.2 stop))

theorem validate_rangeOrder {a b : Addr} (start : a.toNat < 0x20000) (stop : b.toNat ≤ 0x20000)
    (order : b.toNat ≤ a.toNat) : validate a b = some (.rangeOrder, none) :=
  (if_neg (not_not_intro start)).trans ((if_neg (not_not_intro stop)).trans (if_pos (Nat.not_lt.2 order)))

/-! ## The abort of a range command -/

theorem exec_write (a b : Addr) (s : State) :
    exec (.write a b) s = (rangeCommand opWrite a b writeTransfer s).outcome := rfl

/-- A Read and a Write differ in their operation byte and their transfer only. -/
theorem exec_rangeCommand {i : Instr} {op : Byte} {a b : Addr}
    (command : i = .read a b ∧ op = 0x52 ∨ i = .write a b ∧ op = 0x57) (s : State) :
    ∃ transfer, exec i s = (rangeCommand op a b transfer s).outcome := by
  rcases command with ⟨rfl, rfl⟩ | ⟨rfl, rfl⟩
  · exact ⟨readTransfer, exec_read a b s⟩
  · exact ⟨writeTransfer, exec_write a b s⟩

/-- A range that fails validation raises the abort of the failed check, whatever the transfer (43_commands.md R216,
R220). -/
theorem rangeCommand_of_invalid (op : Byte) {a b : Addr} (transfer : State → Flow) (s : State) {c : Cause}
    {v : Option Addr} (invalid : validate a b = some (c, v)) :
    rangeCommand op a b transfer s =
      raiseAbort c v { s with op := op, startAddr := a, endAddr := b, ctl := .check } := by
  rw [rangeCommand, invalid]

/-- A Read or Write that fails validation with the sink ready and the pins quiet: the operands are recorded and the abort
of the failed check runs to its end. -/
theorem exec_of_invalid {s : State} {i : Instr} {op : Byte} {a b : Addr} {c : Cause} {v : Option Addr}
    (ready : s.txReady = true) (quiet : pinsQuiet s)
    (command : i = .read a b ∧ op = 0x52 ∨ i = .write a b ∧ op = 0x57) (invalid : validate a b = some (c, v)) :
    exec i s = .next (afterAbort (message s.cfg c (v.getD s.causeVal))
      { s with op := op, startAddr := a, endAddr := b, causeVal := v.getD s.causeVal }) := by
  obtain ⟨transfer, executed⟩ := exec_rangeCommand command s
  rw [executed, rangeCommand_of_invalid op transfer s invalid,
    raiseAbort_of_quiet c v (s := { s with op := op, startAddr := a, endAddr := b, ctl := .check }) ready quiet,
    outcome_stop]
  rfl

/-- Settles O15: each clause names the check that fails, and the abort of that check is `exec_of_invalid`. -/
theorem invalidRangeAborts : Obligations.InvalidRangeAborts := by
  refine fun s i op a b ready quiet command => ⟨fun start => ?_, fun start stop => ?_, fun start stop order => ?_⟩
  · exact exec_of_invalid ready quiet command (validate_startOob b start)
  · exact exec_of_invalid ready quiet command (validate_endOob start stop)
  · exact exec_of_invalid ready quiet command (validate_rangeOrder start stop order)

end Sys2Proof.Machine
end

section
/-! PROOFS. The reset edge (70_reset_and_hazards.md R340, R341, R343; 10_state.md R40). -/

namespace Sys2Proof.Machine

open Sys2Proof.Safety

/-! ## The step -/

/-- With `rst = 1` the step is the reset edge, whatever the mode, the label and the host's channel. -/
theorem step_of_rst {s : State} (reset : s.rst = true) : step s = .next (resetEdge s) := by
  simp [step, reset]

/-! ## The SRAM -/

/-- No write pulse is cut: the contents stay. -/
theorem resetEdge_mem_of_inactive {s : State} (inactive : s.weAct = false) : (resetEdge s).mem = s.mem := by
  simp [inactive]

/-- A write pulse is cut: the byte at the chip's address is the free value (log entry 7). -/
theorem memRead_resetEdge_cut {s : State} (active : s.weAct = true) :
    memRead (resetEdge s).mem (chipAddr s) = Config.cutByte s.draws := by
  simp [active]

/-- Cut or not, every other byte stays. -/
theorem memRead_resetEdge_other {s : State} {x : Nat} (other : x ≠ chipAddr s) :
    memRead (resetEdge s).mem x = memRead s.mem x := by
  cases pulse : s.weAct with
  | false => rw [resetEdge_mem_of_inactive pulse]
  | true => rw [resetEdge_mem, if_pos pulse, memRead_memWrite_other _ _ other]

/-! ## The link: the events of a reset edge are pin changes -/

@[simp] theorem sentBytes_append (t u : List Event) : sentBytes (t ++ u) = sentBytes t ++ sentBytes u :=
  List.filterMap_append

@[simp] theorem receivedBytes_append (t u : List Event) :
    receivedBytes (t ++ u) = receivedBytes t ++ receivedBytes u :=
  List.filterMap_append

@[simp] theorem sentBytes_pinEvent (changed : Bool) (p : PinChange) : sentBytes (pinEvent changed p) = [] := by
  cases changed <;> rfl

@[simp] theorem receivedBytes_pinEvent (changed : Bool) (p : PinChange) :
    receivedBytes (pinEvent changed p) = [] := by
  cases changed <;> rfl

theorem sentBytes_resetEdge (s : State) : sentBytes (resetEdge s).trace = sentBytes s.trace := by
  simp [resetEvents]

theorem receivedBytes_resetEdge (s : State) : receivedBytes (resetEdge s).trace = receivedBytes s.trace := by
  simp [resetEvents]

/-! ## The statements -/

/-- Settles O1: the step is the reset edge; each field of the CORE is the reset state's, and the environment's fields
and the build are the ones before. -/
theorem resetEdgeValues : Obligations.ResetEdgeValues := fun s reset =>
  ⟨resetEdge s, step_of_rst reset,
    resetEdge_ctl s, resetEdge_mode s, resetEdge_oeAct s, resetEdge_weAct s, resetEdge_dOe s, resetEdge_dOut s,
    resetEdge_srData s, resetEdge_srClk s, resetEdge_rxReady s, resetEdge_txValid s, resetEdge_txData s,
    resetEdge_op s, resetEdge_startAddr s, resetEdge_endAddr s, resetEdge_idx s, resetEdge_tok0 s, resetEdge_tok1 s,
    resetEdge_data s, resetEdge_causeVal s, resetEdge_cause s, resetEdge_serAddr s, resetEdge_serBit s,
    resetEdge_serPhase s, resetEdge_busPhase s, resetEdge_dly s, resetEdge_encFrame s, resetEdge_encPos s,
    resetEdge_chain s, resetEdge_hostRx s, resetEdge_txReady s, resetEdge_rst s, resetEdge_cfg s,
    resetEdge_mem_of_inactive⟩

/-- Settles O2: a reset edge adds only pin changes to the trace, and writes at most the byte whose pulse it cuts. -/
theorem resetDiscardsCommand : Obligations.ResetDiscardsCommand := fun s reset =>
  ⟨resetEdge s, step_of_rst reset, sentBytes_resetEdge s, receivedBytes_resetEdge s, resetEdge_txValid s,
    resetEdge_ctl s, resetEdge_hostRx s, resetEdge_mem_of_inactive, memRead_resetEdge_cut,
    fun _ other => memRead_resetEdge_other other⟩

end Sys2Proof.Machine
end

section
/-! PROOFS. A CORE that waits for the host (70_reset_and_hazards.md R354; log entry 13): an edge of `RxByte()` with nothing
offered and an edge of `TxByte` with the sink not ready answer the same state, and every label that executes one of
them has such an edge. -/

namespace Sys2Proof.Machine

open Sys2Proof.Safety

/-! ## The edge of a label that receives or sends -/

/-- Where the CORE executes `RxByte()` the edge is one of that primitive, with the label's register to write
(10_state.md R28). -/
theorem tick_of_receives {s : State} (label : receives s.ctl = true) : ∃ store, tick s = .go (tickRx store s) := by
  cases hc : s.ctl <;> simp only [hc, receives, Bool.false_eq_true] at label
  case sync k => exact ⟨_, tick_sync hc⟩
  case instr => exact ⟨_, tick_instr hc⟩
  case addr k => exact ⟨_, tick_addr hc⟩
  case rToken0 | rToken1 | wRecv => exact ⟨_, by simp only [tick, hc]; rfl⟩

/-- Where the CORE executes `TxByte` the edge is one of a data byte, or one of a whole frame's emission
(10_state.md R29, R39). -/
theorem tick_of_sends {s : State} (label : sends s.ctl = true) :
    (∃ b next, tick s = .go (tickTx b next s)) ∨ ∃ f next, tick s = .go (tickEmit f next s) := by
  cases hc : s.ctl <;> simp only [hc, sends, Bool.false_eq_true] at label
  case rSend => exact .inl ⟨_, _, by simp only [tick, hc]; rfl⟩
  case sOk | rAnnounce | wGrant | doneOk | errEmit => exact .inr ⟨_, _, by simp only [tick, hc]; rfl⟩

/-! ## The edge that waits -/

/-- A byte of a Read that is offered stays offered while the sink is not ready (10_state.md R29). -/
theorem tickTx_wait (b : Byte) (next : State → State) {s : State} (offered : s.txValid = true)
    (refused : s.txReady = false) : tickTx b next s = s := by
  simp [tickTx, offered, refused]

/-- A frame's byte that is offered stays offered while the sink is not ready (10_state.md R29, R39). -/
theorem tickEmit_wait (f : FrameKind) (next : State → State) {s : State} (offered : s.txValid = true)
    (refused : s.txReady = false) : tickEmit f next s = s := by
  simp [tickEmit, offered, refused]

/-! ## The step that waits -/

/-- An empty channel holds no frame, so nothing is fetched from it. -/
theorem fetch_of_empty {s : State} (empty : s.hostRx = []) : fetch s = none :=
  fetch_of_not_decodes fun r => by simp [empty, decode]

theorem step_of_empty_channel {s : State} (hr : running s) (label : receives s.ctl = true) (ready : s.rxReady = true)
    (empty : s.hostRx = []) : step s = .next s := by
  obtain ⟨store, edge⟩ := tick_of_receives label
  exact step_rx_wait hr (fetch_of_empty empty) edge ready empty

theorem step_of_refused_byte {s : State} (hr : running s) (label : sends s.ctl = true) (offered : s.txValid = true)
    (refused : s.txReady = false) : step s = .next s := by
  have scan : s.ctl ≠ .sync 0 := fun hc => by simp [hc, sends] at label
  rw [step_eq_tick hr (fetch_of_ctl scan)]
  obtain ⟨b, next, edge⟩ | ⟨f, next, edge⟩ := tick_of_sends label
  · rw [edge, tickTx_wait b next offered refused, outcome_go]
  · rw [edge, tickEmit_wait f next offered refused, outcome_go]

/-- Settles O37: either wait is a step that answers the same state, so any number of them does. -/
theorem hostWaitsHold : Obligations.HostWaitsHold := by
  rintro s n hr (⟨label, ready, empty⟩ | ⟨label, offered, refused⟩)
  · exact run_of_step_self (step_of_empty_channel hr label ready empty) n
  · exact run_of_step_self (step_of_refused_byte hr label offered refused) n

end Sys2Proof.Machine
end

section
/-! PROOFS. Decoding and encoding invert each other (30_encoding.md, formats and lengths), and the step that receives a
whole frame (log entry 1). -/

namespace Sys2Proof

open Sys2Proof.Machine Sys2Proof.Safety

/-! ## Decoding an encoded command -/

theorem wellFormed_unknown {op : Byte} :
    (Instr.unknown op).wellFormed = true ↔ op ≠ opStatus ∧ op ≠ opRead ∧ op ≠ opWrite := by
  simp [Instr.wellFormed, commandBytes, opStatus, opRead, opWrite]

/-- Settles O5: the marker leads to the instruction byte's arm, and an address is assembled from its own bytes. -/
theorem decodeInvertsEncode : Obligations.DecodeInvertsEncode := by
  intro i rest hi
  cases i with
  | status => exact decode_syncMarker opStatus rest
  | read a b =>
    have frame := decode_readFrame (a.extractLsb' 16 8) (a.extractLsb' 8 8) (a.extractLsb' 0 8)
      (b.extractLsb' 16 8) (b.extractLsb' 8 8) (b.extractLsb' 0 8) rest
    rw [assembleAddr_extract, assembleAddr_extract] at frame
    exact frame
  | write a b =>
    have frame := decode_writeFrame (a.extractLsb' 16 8) (a.extractLsb' 8 8) (a.extractLsb' 0 8)
      (b.extractLsb' 16 8) (b.extractLsb' 8 8) (b.extractLsb' 0 8) rest
    rw [assembleAddr_extract, assembleAddr_extract] at frame
    exact frame
  | unknown op =>
    obtain ⟨hs, hr, hw⟩ := wellFormed_unknown.1 hi
    exact (decode_syncMarker op rest).trans (decodeOp_unknown hs hr hw rest)

/-! ## Encoding a decoded command -/

/-- What decodes begins with the marker and an instruction byte (30_encoding.md R91, R92). -/
theorem decode_eq_ok {bs : List Byte} {r : Instr × List Byte} (h : decode bs = .ok r) :
    ∃ op q, bs = syncMarker ++ op :: q ∧ decodeOp op q = .ok r := by
  unfold decode at h
  split at h
  · rename_i b0 b1 b2 b3 op q
    split at h
    · rename_i marker
      exact ⟨op, q, by rw [← marker]; rfl, h⟩
    · cases h
  · cases h

/-- What decodes as operands is the bytes of two addresses (30_encoding.md R91, R99). -/
theorem decodeRange_eq_ok {make : Addr → Addr → Instr} {q : List Byte} {r : Instr × List Byte}
    (h : decodeRange make q = .ok r) :
    ∃ a b rest, r = (make a b, rest) ∧ q = addrBytes a ++ addrBytes b ++ rest := by
  unfold decodeRange at h
  split at h
  · cases h
    exact ⟨_, _, _, rfl, by simp [addrBytes]⟩
  · cases h

/-- Settles O6, by the arms of the opcode map. -/
theorem encodeInvertsDecode : Obligations.EncodeInvertsDecode := by
  intro bs i rest h
  obtain ⟨op, q, rfl, hop⟩ := decode_eq_ok h
  by_cases hs : op = opStatus
  · subst hs
    cases hop
    exact ⟨rfl, rfl⟩
  by_cases hr : op = opRead
  · subst hr
    rw [decodeOp_read] at hop
    obtain ⟨a, b, rest, hi, rfl⟩ := decodeRange_eq_ok hop
    cases hi
    exact ⟨rfl, by simp [encode]⟩
  by_cases hw : op = opWrite
  · subst hw
    rw [decodeOp_write] at hop
    obtain ⟨a, b, rest, hi, rfl⟩ := decodeRange_eq_ok hop
    cases hi
    exact ⟨rfl, by simp [encode]⟩
  · rw [decodeOp_unknown hs hr hw] at hop
    cases hop
    exact ⟨wellFormed_unknown.2 ⟨hs, hr, hw⟩, rfl⟩

/-- Settles O4: the five frames are evaluated. -/
theorem knownFramesDecode : Obligations.KnownFramesDecode := by
  unfold Obligations.KnownFramesDecode
  decide

/-! ## The step that receives a frame -/

theorem length_encode (i : Instr) : (encode i).length = frameLength i := by
  cases i <;> rfl

/-- A frame waiting at SYNC0 is fetched whole. -/
theorem fetch_of_decode {s : State} {i : Instr} {rest : List Byte} (hc : s.ctl = .sync 0)
    (hd : decode s.hostRx = .ok (i, rest)) : fetch s = some (i, acceptFrame (frameLength i) s) := by
  simp [fetch, hc, hd]

/-- A frame's bytes are taken from the front of the channel. -/
theorem acceptFrame_of_frame {s : State} {i : Instr} {rest : List Byte} (hq : s.hostRx = encode i ++ rest) :
    acceptFrame (frameLength i) s = { s with
      rxReady := false, hostRx := rest, trace := s.trace ++ (encode i).map Event.rx } := by
  rw [acceptFrame, hq, ← length_encode, List.drop_left, List.take_left]

/-- The step at SYNC0 with a well-formed command's frame at the front of the channel. -/
theorem step_of_frame {s : State} {i : Instr} {rest : List Byte} (hr : running s) (hc : s.ctl = .sync 0)
    (hi : i.wellFormed = true) (hq : s.hostRx = encode i ++ rest) :
    step s = exec i { s with
      rxReady := false, hostRx := rest, trace := s.trace ++ (encode i).map Event.rx } := by
  have decoded : decode s.hostRx = .ok (i, rest) := hq ▸ decodeInvertsEncode i rest hi
  rw [step_eq_exec hr (fetch_of_decode hc decoded), acceptFrame_of_frame hq]

/-- Settles O3: what decodes is the frame at the front of the channel. -/
theorem stepRunsDecodedFrame : Obligations.StepRunsDecodedFrame := by
  intro s i rest hr hc hd
  obtain ⟨hi, hq⟩ := encodeInvertsDecode _ _ _ hd
  rw [step_of_frame hr hc hi hq, hq, ← length_encode, List.take_left]

end Sys2Proof
end

section
/-! PROOFS. What every edge and every command adds to the trace and takes from the host's channel (00_scope.md R13,
10_state.md R28). -/

namespace Sys2Proof.Machine

open Sys2Proof.Safety

/-! ## One state after another -/

/-- `t` comes after `s`: the trace has grown by some events, whose received bytes were taken from the front of the
channel; the build and the host's two levels are the same; and `rx_ready` has fallen only if a byte was taken. -/
def Accounts (s t : State) : Prop :=
  ∃ es : List Event, t.trace = s.trace ++ es ∧ s.hostRx = receivedBytes es ++ t.hostRx ∧ t.cfg = s.cfg ∧
    t.txReady = s.txReady ∧ t.rst = s.rst ∧ (receivedBytes es = [] → s.rxReady = true → t.rxReady = true)

/-- What the link shows of a state, with the build and the two levels of the environment. -/
def linkFields (s : State) : List Event × List Byte × Config.Params × Bool × Bool × Bool :=
  (s.trace, s.hostRx, s.cfg, s.txReady, s.rst, s.rxReady)

namespace Accounts

theorem refl (s : State) : Accounts s s := ⟨[], by simp, rfl, rfl, rfl, rfl, fun _ h => h⟩

theorem trans {s t u : State} (h : Accounts s t) (h' : Accounts t u) : Accounts s u := by
  obtain ⟨es, trace, channel, build, ready, reset, raised⟩ := h
  obtain ⟨es', trace', channel', build', ready', reset', raised'⟩ := h'
  refine ⟨es ++ es', ?_, ?_, build'.trans build, ready'.trans ready, reset'.trans reset, fun none up => ?_⟩
  · rw [trace', trace, List.append_assoc]
  · rw [channel, channel', receivedBytes_append, List.append_assoc]
  · rw [receivedBytes_append, List.append_eq_nil_iff] at none
    exact raised' none.2 (raised none.1 up)

/-- Events of the pins and of the CORE's own bytes take nothing from the channel. -/
theorem of_events {s t : State} (es : List Event) (none : receivedBytes es = []) (trace : t.trace = s.trace ++ es)
    (channel : t.hostRx = s.hostRx) (build : t.cfg = s.cfg) (ready : t.txReady = s.txReady) (reset : t.rst = s.rst)
    (raised : t.rxReady = s.rxReady) : Accounts s t :=
  ⟨es, trace, by rw [none, channel, List.nil_append], build, ready, reset, fun _ up => raised.trans up⟩

/-- The fields that the link does not show may change freely. -/
theorem of_eq {s t : State} (h : linkFields t = linkFields s) : Accounts s t := by
  simp only [linkFields, Prod.mk.injEq] at h
  obtain ⟨trace, channel, build, ready, reset, raised⟩ := h
  exact of_events [] rfl (by rw [trace, List.append_nil]) channel build ready reset raised

end Accounts

/-! ## The shared operations -/

theorem accounts_setSrData (v : Bool) (s : State) : Accounts s (setSrData v s) :=
  .of_events _ (receivedBytes_pinEvent _ _) rfl rfl rfl rfl rfl rfl
theorem accounts_setSrClk (v : Bool) (s : State) : Accounts s (setSrClk v s) :=
  .of_events _ (receivedBytes_pinEvent _ _) rfl rfl rfl rfl rfl rfl
theorem accounts_setOeAct (v : Bool) (s : State) : Accounts s (setOeAct v s) :=
  .of_events _ (receivedBytes_pinEvent _ _) rfl rfl rfl rfl rfl rfl
theorem accounts_setWeAct (v : Bool) (s : State) : Accounts s (setWeAct v s) :=
  .of_events _ (receivedBytes_pinEvent _ _) rfl rfl rfl rfl rfl rfl
theorem accounts_setDOe (v : Bool) (s : State) : Accounts s (setDOe v s) :=
  .of_events _ (receivedBytes_pinEvent _ _) rfl rfl rfl rfl rfl rfl
theorem accounts_setDOut (v : Byte) (s : State) : Accounts s (setDOut v s) :=
  .of_events _ (receivedBytes_pinEvent _ _) rfl rfl rfl rfl rfl rfl
theorem accounts_sample (s : State) : Accounts s (sample s) := .of_events [_] rfl rfl rfl rfl rfl rfl rfl
theorem accounts_byteTaken (s : State) : Accounts s (byteTaken s) := .of_events [_] rfl rfl rfl rfl rfl rfl rfl
theorem accounts_offerByte (b : Byte) (s : State) : Accounts s (offerByte b s) := .of_eq rfl

/-- A byte accepted is the first of the channel. -/
theorem accounts_acceptByte {s : State} {b : Byte} {q : List Byte} (hq : s.hostRx = b :: q) :
    Accounts s (acceptByte b q s) := ⟨[.rx b], rfl, hq, rfl, rfl, rfl, by simp [receivedBytes]⟩

theorem accounts_enterMode (m : BitVec 2) (d : Bool) (s : State) : Accounts s (enterMode m d s) :=
  (accounts_setWeAct false s).trans <| (accounts_setOeAct false _).trans <| (accounts_setDOe d _).trans <|
    .of_eq rfl

theorem accounts_shiftBit (b : Bool) (s : State) : Accounts s (shiftBit b s) :=
  (accounts_setSrData b s).trans <| (accounts_setSrClk true _).trans <| accounts_setSrClk false _

theorem accounts_shiftBits (a : Addr) (k : Nat) (s : State) : Accounts s (shiftBits a k s) := by
  induction k generalizing s with
  | zero => exact .refl s
  | succ k ih => exact (accounts_shiftBit _ s).trans (ih _)

theorem accounts_serialize (a : Addr) (s : State) : Accounts s (serialize a s) := by
  have shifted := accounts_shiftBits a Config.serBits { s with serAddr := a }
  exact (Accounts.of_eq rfl).trans (shifted.trans (.of_eq rfl))

theorem accounts_storeAddrByte (k : Fin 6) (b : Byte) (s : State) : Accounts s (storeAddrByte k b s) := by
  fin_cases k <;> exact .of_eq rfl

theorem accounts_beginAbort (c : Cause) (v : Option Addr) (s : State) : Accounts s (beginAbort c v s) :=
  .of_eq rfl

theorem accounts_afterErrorFrame (s : State) : Accounts s (afterErrorFrame s) := by
  unfold afterErrorFrame
  split <;> exact .of_eq rfl

theorem accounts_abortIdle (s : State) : Accounts s (abortIdle s) :=
  (accounts_enterMode modeIdle false s).trans (.of_eq rfl)

theorem accounts_abortReturn (s : State) : Accounts s (abortReturn s) := by
  unfold abortReturn
  split
  · exact (accounts_afterErrorFrame s).trans (accounts_abortIdle _)
  · exact accounts_afterErrorFrame s

/-! ## One edge -/

theorem accounts_tickRx {store : Byte → State → State} {s : State} (h : ∀ b u, Accounts u (store b u)) :
    Accounts s (tickRx store s) := by
  unfold tickRx
  split
  · split
    · exact .refl s
    · exact (accounts_acceptByte ‹_›).trans (h ..)
  · exact ⟨[], by simp, rfl, rfl, rfl, rfl, fun _ _ => rfl⟩

theorem accounts_tickTx {b : Byte} {next : State → State} {s : State} (h : ∀ u, Accounts u (next u)) :
    Accounts s (tickTx b next s) := by
  unfold tickTx
  split
  · split
    · exact (accounts_byteTaken s).trans (h _)
    · exact .refl s
  · exact accounts_offerByte b s

theorem accounts_startFrame (f : FrameKind) (s : State) : Accounts s (startFrame f s) := .of_eq rfl

theorem accounts_tickEmit {f : FrameKind} {next : State → State} {s : State} (h : ∀ u, Accounts u (next u)) :
    Accounts s (tickEmit f next s) := by
  unfold tickEmit
  split
  · split
    · split
      · exact (accounts_byteTaken s).trans (.of_eq rfl)
      · exact (accounts_byteTaken s).trans (Accounts.trans (.of_eq rfl) (h _))
    · exact .refl s
  · exact accounts_startFrame f s

theorem accounts_tickSettle {next : State → State} {s : State} (h : ∀ u, Accounts u (next u)) :
    Accounts s (tickSettle next s) := by
  unfold tickSettle
  split
  · exact h s
  · exact .of_eq rfl

theorem accounts_nextBit (s : State) : Accounts s (nextBit s) := by
  unfold nextBit
  split <;> exact .of_eq rfl

theorem accounts_tickSerialize (s : State) : Accounts s (tickSerialize s) := by
  cases hp : s.serPhase <;> simp only [tickSerialize, hp]
  case idle => exact .refl s
  case data => exact (accounts_setSrData _ s).trans (.of_eq rfl)
  case rise => exact (accounts_setSrClk true s).trans (.of_eq rfl)
  case fall => exact (accounts_setSrClk false s).trans (.of_eq rfl)
  case settleData | settleRise => exact accounts_tickSettle fun _ => .of_eq rfl
  case settleFall => exact accounts_tickSettle accounts_nextBit

theorem accounts_tickAddress (s : State) : Accounts s (tickAddress s) := by
  rw [tickAddress_eq]
  refine (accounts_tickSerialize s).trans ?_
  unfold addressDone
  split
  · exact .of_eq rfl
  · exact .refl _

theorem accounts_readHead (s : State) : Accounts s (readHead s) := by
  unfold readHead
  split
  · split <;> exact .of_eq rfl
  · exact .of_eq rfl

theorem accounts_writeHead (s : State) : Accounts s (writeHead s) := by
  unfold writeHead
  split
  · split <;> exact .of_eq rfl
  · exact .of_eq rfl

theorem accounts_readNext (s : State) : Accounts s (readNext s) := by
  have head : Accounts s (readHead { s with idx := s.idx + 1 }) :=
    Accounts.trans (.of_eq rfl) (accounts_readHead { s with idx := s.idx + 1 })
  simp only [readNext]
  split
  · exact head.trans (accounts_startFrame .ok _)
  · exact head

theorem accounts_dispatchOp (s : State) : Accounts s (dispatchOp s) := by
  rw [dispatchOp_eq]
  exact .of_eq rfl

theorem accounts_tickToken (s : State) : Accounts s (tickToken s) := by
  unfold tickToken
  split
  · exact .of_eq rfl
  · exact accounts_beginAbort ..

/-- Every clock edge accounts for the bytes it takes. -/
theorem accounts_tick {s t : State} (h : tick s = .go t) : Accounts s t := by
  have same : ∀ {u : State}, Flow.go u = .go t → Accounts s u → Accounts s t := fun ht hu => by cases ht; exact hu
  cases hc : s.ctl <;> simp only [tick, hc] at h
  case sync | rToken0 | rToken1 | wRecv =>
    exact same h (accounts_tickRx fun _ _ => .of_eq rfl)
  case instr =>
    exact same h (accounts_tickRx fun b u =>
      Accounts.trans (.of_eq rfl) (accounts_dispatchOp { u with op := b }))
  case addr k =>
    exact same h (accounts_tickRx fun b u => (accounts_storeAddrByte k b u).trans (.of_eq rfl))
  case check =>
    unfold tickCheck at h
    split at h
    · exact same h (accounts_beginAbort ..)
    · split at h
      · exact same h (.of_eq rfl)
      · split at h
        · exact same h (.of_eq rfl)
        · cases h
  case sOk | wGrant | doneOk => exact same h (accounts_tickEmit fun _ => .of_eq rfl)
  case rEnter => exact same h ((accounts_enterMode modeRead false s).trans (.of_eq rfl))
  case rAnnounce =>
    exact same h (accounts_tickEmit fun u =>
      Accounts.trans (.of_eq rfl) (accounts_readHead { u with idx := 0 }))
  case rTokchk => exact same h (accounts_tickToken s)
  case rRead =>
    cases hb : s.busPhase <;> simp only [tickRead, hb] at h
    case idle =>
      split at h
      · exact same h (.of_eq rfl)
      · cases h
    case serialize => exact same h (accounts_tickAddress s)
    case settleAddr | settleEnable => exact same h (accounts_tickSettle fun _ => .of_eq rfl)
    case assertEnable => exact same h ((accounts_setOeAct true s).trans (.of_eq rfl))
    case sample => exact same h ((accounts_sample s).trans (.of_eq rfl))
    case deassert => exact same h ((accounts_setOeAct false s).trans (.of_eq rfl))
    case drive | settleHold => cases h
  case rSend => exact same h (accounts_tickTx accounts_readNext)
  case wEnter =>
    exact same h ((accounts_enterMode modeWrite true s).trans
      (Accounts.trans (.of_eq rfl) (accounts_writeHead { enterWrite s with idx := 0 })))
  case wWrite =>
    cases hb : s.busPhase <;> simp only [tickWrite, hb] at h
    case idle =>
      split at h
      · exact same h (.of_eq rfl)
      · cases h
    case serialize => exact same h (accounts_tickAddress s)
    case settleAddr | settleEnable => exact same h (accounts_tickSettle fun _ => .of_eq rfl)
    case drive => exact same h ((accounts_setDOut s.data s).trans (.of_eq rfl))
    case assertEnable => exact same h ((accounts_setWeAct true s).trans (.of_eq rfl))
    case deassert => exact same h ((accounts_setWeAct false s).trans (.of_eq rfl))
    case settleHold =>
      exact same h (accounts_tickSettle fun u => Accounts.trans (.of_eq rfl)
        (accounts_writeHead { u with busPhase := .idle, idx := u.idx + 1 }))
    case sample => cases h
  case doneIdle => exact same h ((accounts_enterMode modeIdle false s).trans (.of_eq rfl))
  case errEmit => exact same h (accounts_tickEmit accounts_afterErrorFrame)
  case errIdle => exact same h (accounts_abortIdle s)

/-! ## Pieces of a command -/

/-- What holds of the state that a piece of a command ends or waits in. -/
def Flow.All (p : State → Prop) : Flow → Prop
  | .go t => p t
  | .stop t => p t
  | .fault _ => True

theorem Flow.All.mono {p q : State → Prop} {x : Flow} (hx : x.All p) (h : ∀ t, p t → q t) : x.All q := by
  cases x with
  | go t => exact h t hx
  | stop t => exact h t hx
  | fault f => trivial

theorem Flow.All.andThen {p : State → Prop} {x : Flow} {k : State → Flow} (hx : x.All p)
    (hk : ∀ t, p t → (k t).All p) : (x.andThen k).All p := by
  cases x with
  | go t => exact hk t hx
  | stop t => exact hx
  | fault f => trivial

theorem Flow.All.of_outcome {p : State → Prop} {x : Flow} {t : State} (hx : x.All p)
    (h : x.outcome = .next t) : p t := by
  cases x <;> cases h <;> exact hx

/-- A piece of a command that starts in `s` accounts for every byte. -/
abbrev FlowAccounts (s : State) (x : Flow) : Prop := x.All (Accounts s)

theorem FlowAccounts.prepend {s t : State} {x : Flow} (h : Accounts s t) (hx : FlowAccounts t x) : FlowAccounts s x :=
  Flow.All.mono hx fun _ => h.trans

theorem FlowAccounts.andThen {s : State} {x : Flow} {k : State → Flow} (hx : FlowAccounts s x)
    (hk : ∀ t, FlowAccounts t (k t)) : FlowAccounts s (x.andThen k) :=
  Flow.All.andThen hx fun t ht => FlowAccounts.prepend ht (hk t)

theorem accounts_rxByte {store : Byte → State → State} {s : State} (h : ∀ b u, Accounts u (store b u)) :
    FlowAccounts s (rxByte store s) := by
  unfold rxByte
  split
  · exact ⟨[], by simp, rfl, rfl, rfl, rfl, fun _ _ => rfl⟩
  · exact (accounts_acceptByte ‹_›).trans (h ..)

theorem accounts_txByte (b : Byte) (s : State) : FlowAccounts s (txByte b s) := by
  unfold txByte
  split
  · exact (accounts_offerByte b s).trans (accounts_byteTaken _)
  · exact accounts_offerByte b s

theorem accounts_emitFrom (f : FrameKind) (pos : Nat) (bs : List Byte) (s : State) :
    FlowAccounts s (emitFrom f pos bs s) := by
  induction bs generalizing pos s with
  | nil => exact .of_eq rfl
  | cons b bs ih =>
    exact .andThen (.prepend (.of_eq rfl) (accounts_txByte b _)) fun t => ih (pos + 1) t

theorem accounts_emit (f : FrameKind) (s : State) : FlowAccounts s (emit f s) := accounts_emitFrom f 0 _ s

theorem accounts_readByte (a : Addr) (s : State) : FlowAccounts s (readByte a s) := by
  unfold readByte
  split
  · exact (accounts_serialize a s).trans <| (accounts_setOeAct true _).trans <| (accounts_sample _).trans <|
      (accounts_setOeAct false _).trans (.of_eq rfl)
  · trivial

theorem accounts_writeByte (a : Addr) (v : Byte) (s : State) : FlowAccounts s (writeByte a v s) := by
  unfold writeByte
  split
  · exact (accounts_serialize a s).trans <| (accounts_setDOut v _).trans <| (accounts_setWeAct true _).trans <|
      (accounts_setWeAct false _).trans (.of_eq rfl)
  · trivial

theorem accounts_raiseAbort (c : Cause) (v : Option Addr) (s : State) : FlowAccounts s (raiseAbort c v s) :=
  .andThen (.prepend (accounts_beginAbort c v s) (accounts_emit .ng _)) accounts_abortReturn

/-! ## The commands -/

theorem accounts_readToken (s : State) : FlowAccounts s (readToken s) := by
  refine .andThen (.prepend (.of_eq rfl) (accounts_rxByte fun _ _ => .of_eq rfl))
    fun t => .andThen (.prepend (.of_eq rfl)
      (accounts_rxByte fun _ _ => .of_eq rfl)) fun u => ?_
  split
  · exact .of_eq rfl
  · exact .prepend (.of_eq rfl) (accounts_raiseAbort .flowDesync none { u with ctl := .rTokchk })

theorem accounts_readAndSend (s : State) : FlowAccounts s (readAndSend s) :=
  .andThen (.prepend (.of_eq rfl) (accounts_readByte _ { s with ctl := .rRead })) fun t =>
  .andThen (.prepend (.of_eq rfl) (accounts_txByte _ { t with ctl := .rSend })) fun _ =>
  .of_eq rfl

theorem accounts_readElement (s : State) : FlowAccounts s (readElement s) := by
  rw [readElement_eq]
  refine .andThen ?_ accounts_readAndSend
  unfold beforeByte
  split
  · exact accounts_readToken s
  · exact .refl s

theorem accounts_readElements (n : Nat) (s : State) : FlowAccounts s (readElements n s) := by
  induction n generalizing s with
  | zero => exact .refl s
  | succ n ih => exact .andThen (accounts_readElement s) ih

/-- The grant of a Write's index, if it begins a window (44_flow_control.md R245). -/
def beforePayload (s : State) : Flow := if atWindowStart s.idx then writeGrant s else .go s

/-- The byte of a Write's index: it is received and written (44_flow_control.md R245). -/
def receiveAndWrite (s : State) : Flow :=
  (rxByte (fun b s => { s with data := b }) { s with ctl := .wRecv }).andThen fun s =>
  (writeByte (byteAddr s) s.data { s with ctl := .wWrite }).andThen fun s =>
  .go { s with idx := s.idx + 1 }

theorem writeElement_eq (s : State) : writeElement s = (beforePayload s).andThen receiveAndWrite := rfl

theorem accounts_receiveAndWrite (s : State) : FlowAccounts s (receiveAndWrite s) :=
  .andThen (.prepend (.of_eq rfl)
    (accounts_rxByte (s := { s with ctl := .wRecv }) fun _ _ => .of_eq rfl)) fun t =>
  .andThen (.prepend (.of_eq rfl) (accounts_writeByte _ _ { t with ctl := .wWrite })) fun _ =>
  .of_eq rfl

theorem accounts_writeElement (s : State) : FlowAccounts s (writeElement s) := by
  rw [writeElement_eq]
  refine .andThen ?_ accounts_receiveAndWrite
  unfold beforePayload
  split
  · exact .prepend (.of_eq rfl) (accounts_emit .co { s with ctl := .wGrant })
  · exact .refl s

theorem accounts_writeElements (n : Nat) (s : State) : FlowAccounts s (writeElements n s) := by
  induction n generalizing s with
  | zero => exact .refl s
  | succ n ih => exact .andThen (accounts_writeElement s) ih

theorem accounts_readTransfer (s : State) : FlowAccounts s (readTransfer s) :=
  .andThen (.prepend (Accounts.trans (accounts_enterMode modeRead false { s with ctl := .rEnter }) <|
      .of_eq rfl) (accounts_emit .co _)) fun t =>
  .prepend (.of_eq rfl) (accounts_readElements (rangeLen t) { t with idx := 0 })

theorem accounts_writeTransfer (s : State) : FlowAccounts s (writeTransfer s) :=
  .prepend (Accounts.trans (accounts_enterMode modeWrite true { s with ctl := .wEnter }) <|
    .of_eq rfl) (accounts_writeElements _ _)

theorem accounts_finishTransfer (s : State) : FlowAccounts s (finishTransfer s) :=
  .andThen (.prepend (.of_eq rfl) (accounts_emit .ok { s with ctl := .doneOk })) fun t =>
  (accounts_enterMode modeIdle false { t with ctl := .doneIdle }).trans (.of_eq rfl)

theorem accounts_rangeCommand (op : Byte) (a b : Addr) {transfer : State → Flow} (s : State)
    (h : ∀ u, FlowAccounts u (transfer u)) : FlowAccounts s (rangeCommand op a b transfer s) := by
  let u : State := { s with op := op, startAddr := a, endAddr := b, ctl := .check }
  have operands : Accounts s u := .of_eq rfl
  cases hv : validate a b with
  | some r =>
    obtain ⟨c, v⟩ := r
    rw [rangeCommand_of_invalid op transfer s hv]
    exact .prepend operands (accounts_raiseAbort c v u)
  | none =>
    rw [rangeCommand_of_valid op transfer s ((validate_eq_none a b).1 hv)]
    exact .prepend operands (.andThen (h u) accounts_finishTransfer)

/-- Every command accounts for the bytes it takes, from any state. -/
theorem accounts_exec {i : Instr} {s t : State} (h : exec i s = .next t) : Accounts s t := by
  cases i with
  | status =>
    have answered : FlowAccounts s (emit .ok { s with op := 0x53, ctl := .sOk }) :=
      .prepend (.of_eq rfl) (accounts_emit .ok { s with op := 0x53, ctl := .sOk })
    rw [exec_status] at h
    exact Flow.All.of_outcome
      (answered.andThen (k := fun t => .go { t with ctl := .sync 0 }) fun _ => Accounts.of_eq rfl) h
  | read a b => exact Flow.All.of_outcome (accounts_rangeCommand opRead a b s accounts_readTransfer) h
  | write a b => exact Flow.All.of_outcome (accounts_rangeCommand opWrite a b s accounts_writeTransfer) h
  | unknown op =>
    refine Flow.All.of_outcome (FlowAccounts.prepend ?_ (accounts_raiseAbort .unknownCmd none { s with op := op })) h
    exact .of_eq rfl

/-! ## The step -/

/-- A frame's bytes are received in their order. -/
theorem receivedBytes_map_rx (bs : List Byte) : receivedBytes (bs.map Event.rx) = bs := by
  simp [receivedBytes, List.filterMap_map]

/-- What is fetched is a decoded frame, with its bytes taken. -/
theorem fetch_eq_some {s t : State} {i : Instr} (h : fetch s = some (i, t)) :
    s.ctl = .sync 0 ∧ (∃ rest, decode s.hostRx = .ok (i, rest)) ∧ t = acceptFrame (frameLength i) s := by
  unfold fetch at h
  split at h
  · split at h
    · cases h
      exact ⟨‹_›, ⟨_, ‹_›⟩, rfl⟩
    · cases h
  · cases h

/-- A clock edge completes or faults: its waits are edges too (log entry 13). -/
theorem tick_ne_stop (s t : State) : tick s ≠ .stop t := by
  cases hc : s.ctl <;> simp only [tick, hc, ne_eq, reduceCtorEq, not_false_eq_true]
  case check =>
    unfold tickCheck
    split
    · simp
    · split
      · simp
      · split <;> simp
  case rRead =>
    unfold tickRead
    split
    · split <;> simp
    all_goals simp
  case wWrite =>
    unfold tickWrite
    split
    · split <;> simp
    all_goals simp

/-- A step that answers a next state is a reset edge, a command after its frame, or one clock edge. -/
theorem step_eq_next {s t : State} (h : step s = .next t) :
    s.rst = true ∧ t = resetEdge s ∨
    running s ∧ (∃ i rest, s.ctl = .sync 0 ∧ decode s.hostRx = .ok (i, rest) ∧
      exec i (acceptFrame (frameLength i) s) = .next t) ∨
    running s ∧ fetch s = none ∧ tick s = .go t := by
  cases reset : s.rst with
  | true => rw [step_of_rst reset] at h; cases h; exact .inl ⟨rfl, rfl⟩
  | false =>
    have legal : s.mode ≠ modeIllegal := fun hm => by simp [step, reset, hm] at h
    have hr : running s := ⟨reset, legal⟩
    cases hf : fetch s with
    | some r =>
      obtain ⟨i, u⟩ := r
      obtain ⟨hc, ⟨rest, hd⟩, rfl⟩ := fetch_eq_some hf
      rw [step_eq_exec hr hf] at h
      exact .inr (.inl ⟨hr, i, rest, hc, hd, h⟩)
    | none =>
      rw [step_eq_tick hr hf] at h
      refine .inr (.inr ⟨hr, rfl, ?_⟩)
      cases ht : tick s with
      | go u => rw [ht] at h; cases h; rfl
      | stop u => exact absurd ht (tick_ne_stop s u)
      | fault f => rw [ht] at h; cases h

/-- Settles O49: a reset edge adds only pin changes, a command has its frame's bytes received before it, and every edge
accounts for its bytes. -/
theorem stepAccountsForEveryByte : Obligations.StepAccountsForEveryByte := by
  intro s t h
  rcases step_eq_next h with ⟨-, rfl⟩ | ⟨-, i, rest, -, hd, he⟩ | ⟨-, -, ht⟩
  · exact ⟨resetEvents s, rfl, by simp [resetEvents], rfl, rfl, rfl⟩
  · obtain ⟨-, hq⟩ := encodeInvertsDecode _ _ _ hd
    obtain ⟨es, trace, channel, build, ready, reset, -⟩ := accounts_exec he
    rw [acceptFrame_of_frame hq] at trace channel build ready reset
    refine ⟨(encode i).map Event.rx ++ es, ?_, ?_, build, ready, reset⟩
    · rw [trace, List.append_assoc]
    · rw [hq, receivedBytes_append, receivedBytes_map_rx, List.append_assoc, ← channel]
  · obtain ⟨es, trace, channel, build, ready, reset, -⟩ := accounts_tick ht
    exact ⟨es, trace, channel, build, ready, reset⟩

end Sys2Proof.Machine
end

section
/-! PROOFS. The way of the clocked controller through a command: it meets SYNC0 only at the command's end, so that
each of its edges is a step of the machine (log entry 1). -/

namespace Sys2Proof.Machine

open Sys2Proof.Safety

/-! ## Ways that do not leave SYNC0 -/

/-- Some number of clock edges, none of them from SYNC0, leads from `s` to `t`. -/
inductive Leads : State → State → Prop
  | refl (s : State) : Leads s s
  | head {s t u : State} (away : s.ctl ≠ .sync 0) (edge : tick s = .go t) (rest : Leads t u) : Leads s u

namespace Leads

theorem one {s t : State} (away : s.ctl ≠ .sync 0) (edge : tick s = .go t) : Leads s t := .head away edge (.refl t)

theorem trans {s t u : State} (h : Leads s t) (r : Leads t u) : Leads s u := by
  induction h with
  | refl s => exact r
  | head away edge _ ih => exact .head away edge (ih r)

theorem reaches {s t : State} (h : Leads s t) : Reaches s t := by
  induction h with
  | refl s => exact .refl s
  | head _ edge _ ih => exact .head edge ih

/-- The bytes a way takes are accounted for. -/
theorem accounts {s t : State} (h : Leads s t) : Accounts s t := by
  induction h with
  | refl s => exact .refl s
  | head _ edge _ ih => exact (accounts_tick edge).trans ih

/-- From a state that its edge answers again a way goes nowhere. -/
theorem eq_of_fixed {s t : State} (h : Leads s t) (fixed : tick s = .go s) : t = s := by
  induction h with
  | refl s => rfl
  | head _ edge _ ih =>
    obtain rfl := Flow.go.inj (fixed.symm.trans edge)
    exact ih fixed

/-- Edges are determined: of two ways from one state one is the beginning of the other. -/
theorem linear {s t u : State} (h : Leads s t) (r : Leads s u) : Leads t u ∨ Leads u t := by
  induction h with
  | refl s => exact .inl r
  | head away edge rest ih =>
    cases r with
    | refl => exact .inr (.head away edge rest)
    | head _ edge' rest' =>
      obtain rfl := Flow.go.inj (edge.symm.trans edge')
      exact ih rest'

end Leads

/-! ## Steps along a way -/

/-- A mode entry sets a legal mode, and no other edge changes the mode (41_bus_mode_controller.md R167). -/
theorem legal_tick {s t : State} (legal : s.mode ≠ modeIllegal) (h : tick s = .go t) : t.mode ≠ modeIllegal := by
  cases busEdge_tick h with
  | keeps same => rw [(BusRegs.mk.inj same).1]; exact legal
  | outputEnable _ _ _ same => rw [(BusRegs.mk.inj same).1]; exact legal
  | writeEnable _ _ _ same => rw [(BusRegs.mk.inj same).1]; exact legal
  | entry hc m d same =>
    rcases hc with hc | hc | hc | hc <;> simp only [tick, hc, Flow.go.injEq] at h <;> subst h
    · change modeRead ≠ modeIllegal; decide
    · rw [(BusRegs.mk.inj (busRegs_writeHead _)).1]; change modeWrite ≠ modeIllegal; decide
    · change modeIdle ≠ modeIllegal; decide
    · change modeIdle ≠ modeIllegal; decide

theorem running_tick {s t : State} (hr : running s) (h : tick s = .go t) : running t := by
  obtain ⟨released, legal⟩ := hr
  obtain ⟨-, -, -, -, -, reset, -⟩ := accounts_tick h
  exact ⟨reset.trans released, legal_tick legal h⟩

/-- A way of the clocked controller is a run of the machine. -/
theorem run_of_leads {s t : State} (h : Leads s t) (hr : running s) : running t ∧ ∃ k, run k s = .next t := by
  induction h with
  | refl s => exact ⟨hr, 0, rfl⟩
  | head away edge _ ih =>
    obtain ⟨end_running, k, hk⟩ := ih (running_tick hr edge)
    have first := step_eq_tick hr (fetch_of_ctl away)
    rw [edge, outcome_go] at first
    exact ⟨end_running, k + 1, by rw [run_succ_next k first, hk]⟩

/-! ## From edges to a way -/

theorem ticks_succ_eq_go {k : Nat} {s t : State} (h : ticks (k + 1) s = .go t) :
    ∃ u, tick s = .go u ∧ ticks k u = .go t := by
  rw [ticks] at h
  cases hs : tick s with
  | go u => exact ⟨u, rfl, by rw [hs] at h; exact h⟩
  | stop u => exact absurd hs (tick_ne_stop s u)
  | fault f => rw [hs] at h; cases h

theorem accounts_ticks {k : Nat} {s t : State} (h : ticks k s = .go t) : Accounts s t := by
  induction k generalizing s with
  | zero => cases h; exact .refl _
  | succ k ih =>
    obtain ⟨u, edge, rest⟩ := ticks_succ_eq_go h
    exact (accounts_tick edge).trans (ih rest)

theorem ticks_fixed {s t : State} (fixed : tick s = .go s) (k : Nat) (h : ticks k s = .go t) : t = s := by
  induction k with
  | zero => cases h; rfl
  | succ k ih => rw [ticks, fixed, go_andThen] at h; exact ih h

/-- Between states with the same channel no byte was taken, so `rx_ready` has not fallen. -/
theorem Accounts.raised_of_channel {s t : State} (h : Accounts s t) (channel : t.hostRx = s.hostRx) :
    s.rxReady = true → t.rxReady = true := by
  obtain ⟨es, -, taken, -, -, -, raised⟩ := h
  exact raised (by simpa [channel] using taken)

/-- The channel gets no longer. -/
theorem Accounts.channel_suffix {s t : State} (h : Accounts s t) : t.hostRx <:+ s.hostRx := by
  obtain ⟨es, -, taken, -, -, -, -⟩ := h
  exact ⟨_, taken.symm⟩

/-- Edges that take no byte and do not raise `rx_ready` make a way: an edge from SYNC0 does one or the other, or
waits. -/
theorem leads_of_ticks {k : Nat} {s t : State} (h : ticks k s = .go t) (channel : t.hostRx = s.hostRx)
    (raised : t.rxReady = true → s.rxReady = true) : Leads s t := by
  induction k generalizing s with
  | zero => cases h; exact .refl _
  | succ k ih =>
    obtain ⟨u, edge, rest⟩ := ticks_succ_eq_go h
    have before := accounts_tick edge
    have after := accounts_ticks rest
    have middle : u.hostRx = s.hostRx :=
      before.channel_suffix.eq_of_length_le (channel ▸ after.channel_suffix.length_le)
    by_cases away : s.ctl ≠ .sync 0
    · exact .head away edge (ih rest (channel.trans middle.symm) fun up =>
        before.raised_of_channel middle (raised up))
    · have scan := edge
      rw [tick_sync (not_ne_iff.1 away), Flow.go.injEq] at scan
      cases up : s.rxReady with
      | false =>
        rw [tickRx, up, if_neg Bool.false_ne_true] at scan
        have late : t.rxReady = true := after.raised_of_channel (channel.trans middle.symm) (by rw [← scan])
        exact absurd (raised late) (by rw [up]; exact Bool.false_ne_true)
      | true =>
        cases hq : s.hostRx with
        | nil =>
          obtain rfl : u = s := by rw [← scan]; simp [tickRx, up, hq]
          obtain rfl := ticks_fixed edge k rest
          exact .refl _
        | cons b q =>
          have taken : u.hostRx = q := by rw [← scan]; simp [tickRx, up, hq, acceptByte]
          rw [taken, hq] at middle
          exact absurd middle (List.cons_ne_self b q).symm

/-- Edges between two states with the same channel and the same `rx_ready` make a way. -/
theorem leads_of_reaches {s t : State} (h : Reaches s t) (channel : t.hostRx = s.hostRx)
    (raised : t.rxReady = s.rxReady) : Leads s t := by
  obtain ⟨k, hk⟩ := h
  exact leads_of_ticks hk channel fun up => raised ▸ up

/-- `RxByte()` away from SYNC0, with a byte waiting. -/
theorem leads_rx (store : Byte → State → State) {s : State} {b : Byte} {q : List Byte} (away : s.ctl ≠ .sync 0)
    (h : ∀ t : State, t.ctl = s.ctl → tick t = .go (tickRx store t)) (hq : s.hostRx = b :: q) :
    Leads s (store b (acceptByte b q s)) := by
  have take : Leads { s with rxReady := true } (store b (acceptByte b q s)) :=
    .one away (by rw [h _ (by rfl)]; simp [tickRx, hq, acceptByte])
  cases up : s.rxReady with
  | true => rwa [← up] at take
  | false => exact .head away (by rw [h s rfl]; simp [tickRx, up]) take

/-- `RxByte()` away from SYNC0: `rx_ready` is raised. -/
theorem leads_rx_wait (store : Byte → State → State) {s : State} (away : s.ctl ≠ .sync 0)
    (h : ∀ t : State, t.ctl = s.ctl → tick t = .go (tickRx store t)) : Leads s { s with rxReady := true } := by
  cases up : s.rxReady with
  | true => simpa [← up] using Leads.refl s
  | false => exact .one away (by rw [h s rfl]; simp [tickRx, up])

end Sys2Proof.Machine
end

section
/-! PROOFS. Piece by piece the clocked controller does what a command's pseudocode does (43_commands.md; log entry 1).
-/

namespace Sys2Proof.Machine

open Sys2Proof.Safety

/-! ## A piece and its edges -/

/-- A state where a command has ended, or waits for the host (log entry 13). -/
def Rests (s : State) : Prop := s.ctl = .sync 0 ∨ tick s = .go s

/-- The edges from `s` do the piece `x`: where it completes they go on to `next` of its end, of which `post` holds;
where it does not, they come to rest with it. -/
def Simulates (s : State) (x : Flow) (next : State → State) (post : State → Prop) : Prop :=
  match x with
  | .go t => Leads s (next t) ∧ post t
  | .stop t => Leads s t ∧ Rests t
  | .fault _ => False

namespace Simulates

variable {s t : State} {x : Flow} {next next' : State → State} {post post' : State → Prop} {k : State → Flow}

theorem go (h : Leads s (next t)) (hp : post t) : Simulates s (.go t) next post := ⟨h, hp⟩

theorem stop (h : Leads s t) (rests : Rests t) : Simulates s (.stop t) next post := ⟨h, rests⟩

theorem prepend (h : Leads s t) (hx : Simulates t x next post) : Simulates s x next post := by
  cases x with
  | go u => exact ⟨h.trans hx.1, hx.2⟩
  | stop u => exact ⟨h.trans hx.1, hx.2⟩
  | fault f => exact hx

theorem andThen (hx : Simulates s x next post) (hk : ∀ t, post t → Simulates (next t) (k t) next' post') :
    Simulates s (x.andThen k) next' post' := by
  cases x with
  | go t => exact .prepend hx.1 (hk t hx.2)
  | stop t => exact hx
  | fault f => exact hx.elim

theorem mono (hx : Simulates s x next post) (h : ∀ t, post t → post' t) : Simulates s x next post' := by
  cases x with
  | go t => exact ⟨hx.1, h t hx.2⟩
  | stop t => exact hx
  | fault f => exact hx

/-- A whole command: its edges lead to the state that it answers, where the CORE rests. -/
theorem outcome (hx : Simulates s x id fun t => t.ctl = .sync 0) : ∃ t, x.outcome = .next t ∧ Leads s t ∧ Rests t := by
  cases x with
  | go t => exact ⟨t, rfl, hx.1, .inl hx.2⟩
  | stop t => exact ⟨t, rfl, hx.1, hx.2⟩
  | fault f => exact hx.elim

end Simulates

/-! ## The host-stream primitives -/

/-- `RxByte()`, the label's next step in `next`. -/
theorem simulates_rx (store : Byte → State → State) (next : State → State) {s : State} (away : s.ctl ≠ .sync 0)
    (h : ∀ t : State, t.ctl = s.ctl → tick t = .go (tickRx (fun b u => next (store b u)) t)) :
    Simulates s (rxByte store s) next fun t => ∃ b q, t = store b (acceptByte b q s) := by
  cases hq : s.hostRx with
  | nil =>
    rw [rxByte_nil store hq]
    exact .stop (leads_rx_wait _ away h) (.inr (by rw [h _ (by rfl)]; simp [tickRx, hq]))
  | cons b q =>
    rw [rxByte_cons store hq]
    exact .go (leads_rx (fun b u => next (store b u)) away h hq) ⟨b, q, rfl⟩

/-- The byte sent at R_SEND. -/
theorem simulates_send {s : State} (hc : s.ctl = .rSend) (sent : s.txValid = false) :
    Simulates s (txByte s.data s) readNext fun t => t = byteTaken (offerByte s.data s) := by
  have h : ∀ t : State, t.ctl = .rSend → tick t = .go (tickTx t.data readNext t) := fun t ht => by simp only [tick, ht]
  have away : s.ctl ≠ .sync 0 := by simp [hc]
  have offer : Leads s (offerByte s.data s) := .one away (by rw [h s hc]; simp [tickTx, sent])
  cases ready : s.txReady with
  | true =>
    rw [txByte, if_pos ready]
    exact .go (offer.trans (.one away (by rw [h (offerByte s.data s) hc]; simp [tickTx, ready]))) rfl
  | false =>
    rw [txByte, if_neg (by simp [ready])]
    exact .stop offer (.inr (by rw [h (offerByte s.data s) hc]; simp [tickTx, ready]))

section
variable {f : FrameKind} {next : State → State} {s : State}

@[simp] theorem emitted_frameBytes_txValid : (emitted (frameBytes f s) s).txValid = false :=
  if_neg (frameBytes_ne_nil f s)

/-- A frame whose first byte is already offered. -/
theorem simulates_emit_started (h : ∀ t : State, t.ctl = s.ctl → tick t = .go (tickEmit f next t))
    (keeps : ∀ u : State, (next u).hostRx = u.hostRx ∧ (next u).rxReady = u.rxReady) :
    Simulates (startFrame f s) (emit f s) next fun t => t = emitted (frameBytes f s) s := by
  cases ready : s.txReady with
  | true =>
    rw [emit_ready f ready]
    exact .go (leads_of_reaches (reaches_emit_started f next h ready) (keeps _).1 (keeps _).2) rfl
  | false =>
    rw [emit_wait f ready]
    exact .stop (.refl _) (.inr (by rw [h _ (by rfl)]; exact congrArg Flow.go (tickEmit_wait f next rfl ready)))

/-- A frame, from its label. -/
theorem simulates_emit (away : s.ctl ≠ .sync 0) (h : ∀ t : State, t.ctl = s.ctl → tick t = .go (tickEmit f next t))
    (sent : s.txValid = false) (keeps : ∀ u : State, (next u).hostRx = u.hostRx ∧ (next u).rxReady = u.rxReady) :
    Simulates s (emit f s) next fun t => t = emitted (frameBytes f s) s :=
  .prepend (.one away (by rw [h s rfl]; simp [tickEmit, sent])) (simulates_emit_started h keeps)

end

/-! ## The abort procedure -/

theorem afterErrorFrame_channel (s : State) :
    (afterErrorFrame s).hostRx = s.hostRx ∧ (afterErrorFrame s).rxReady = s.rxReady := by
  unfold afterErrorFrame
  split <;> exact ⟨rfl, rfl⟩

/-- After the error frame the CORE returns to MAIN (60_exceptions.md R307). -/
theorem leads_abortReturn (s : State) : Leads (afterErrorFrame s) (abortReturn s) := by
  unfold abortReturn
  split
  · rename_i idle
    have label : (afterErrorFrame s).ctl = .errIdle := by rw [afterErrorFrame, if_pos idle]
    exact .one (by simp [label]) (by simp only [tick, label])
  · exact .refl _

theorem abortReturn_ctl (s : State) : (abortReturn s).ctl = .sync 0 := by
  unfold abortReturn
  split
  · rfl
  · rename_i stays
    rw [afterErrorFrame, if_neg stays]

/-- An abort never goes on with the piece that raised it. -/
theorem simulates_raiseAbort (c : Cause) (v : Option Addr) {s : State} (sent : s.txValid = false)
    (next : State → State) (post : State → Prop) : Simulates (beginAbort c v s) (raiseAbort c v s) next post := by
  have frame := simulates_emit (f := .ng) (s := beginAbort c v s) (next := afterErrorFrame) (by simp [beginAbort])
    (fun t ht => by simp only [tick, ht, beginAbort]) sent afterErrorFrame_channel
  exact frame.andThen fun t _ => .stop (leads_abortReturn t) (.inl (abortReturn_ctl t))

/-! ## The closing frame -/

/-- DONE_OK and DONE_IDLE, the closing frame's first byte offered already or not (43_commands.md R216, R220). -/
theorem simulates_finish {s t : State} (frame : Simulates t (emit .ok { s with ctl := .doneOk })
      (fun u => { u with ctl := .doneIdle }) fun u => u = emitted [0x4F, 0x4B] { s with ctl := .doneOk }) :
    Simulates t (finishTransfer s) id fun u => u.ctl = .sync 0 := by
  refine frame.andThen fun u _ => .go ?_ rfl
  exact .one (by simp) rfl

/-- The closing frame of a Write begins at DONE_OK. -/
theorem simulates_finish_from {s : State} (sent : s.txValid = false) :
    Simulates { s with ctl := .doneOk } (finishTransfer s) id fun u => u.ctl = .sync 0 :=
  simulates_finish <| simulates_emit (f := .ok) (s := { s with ctl := .doneOk })
    (by simp) (fun u hu => by simp only [tick, hu]) sent fun _ => ⟨rfl, rfl⟩

/-- The closing frame of a Read has begun with the last data byte's edge (10_state.md R29). -/
theorem simulates_finish_started (s : State) :
    Simulates (startFrame .ok { s with ctl := .doneOk }) (finishTransfer s) id fun u => u.ctl = .sync 0 :=
  simulates_finish <| simulates_emit_started (f := .ok) (s := { s with ctl := .doneOk })
    (fun u hu => by simp only [tick, hu]) fun _ => ⟨rfl, rfl⟩

/-! ## The indices of a transfer -/

theorem readHead_channel (s : State) : (readHead s).hostRx = s.hostRx ∧ (readHead s).rxReady = s.rxReady := by
  unfold readHead
  split
  · split <;> exact ⟨rfl, rfl⟩
  · exact ⟨rfl, rfl⟩

theorem writeHead_channel (s : State) : (writeHead s).hostRx = s.hostRx ∧ (writeHead s).rxReady = s.rxReady := by
  unfold writeHead
  split
  · split <;> exact ⟨rfl, rfl⟩
  · exact ⟨rfl, rfl⟩

/-- Between two indices of a transfer of `[a, b)` in mode `m`, index `i` next: no byte is offered and no transaction
runs. -/
structure AtIndex (m : BitVec 2) (a b : Addr) (i : Nat) (s : State) : Prop where
  sent : s.txValid = false
  bus : s.busPhase = .idle
  mode : s.mode = m
  start : s.startAddr = a
  stop : s.endAddr = b
  index : s.idx.toNat = i

namespace AtIndex

variable {m : BitVec 2} {a b : Addr} {i : Nat} {s : State}

theorem length (h : AtIndex m a b i s) : rangeLen s = b.toNat - a.toNat := by rw [rangeLen, h.start, h.stop]

/-- The index of a valid range does not wrap (44_flow_control.md R247). -/
theorem next_index (h : AtIndex m a b i s) (range : validRange a b) (inside : i < b.toNat - a.toNat) :
    (s.idx + 1).toNat = i + 1 := by
  obtain ⟨-, small⟩ := range
  unfold Config.memSize at small
  rw [BitVec.toNat_add, h.index]
  exact Nat.mod_eq_of_lt (a := i + 1) (by omega)

theorem readHead_eq (h : AtIndex m a b i s) (inside : i < b.toNat - a.toNat) :
    readHead s = if atWindowStart s.idx then { s with ctl := .rToken0 } else { s with ctl := .rRead } := by
  rw [readHead, h.length, h.index, if_pos inside]

theorem readHead_end (h : AtIndex m a b (b.toNat - a.toNat) s) : readHead s = { s with ctl := .doneOk } := by
  rw [readHead, h.length, h.index, if_neg (lt_irrefl _)]

theorem writeHead_eq (h : AtIndex m a b i s) (inside : i < b.toNat - a.toNat) :
    writeHead s = if atWindowStart s.idx then { s with ctl := .wGrant } else { s with ctl := .wRecv } := by
  rw [writeHead, h.length, h.index, if_pos inside]

theorem writeHead_end (h : AtIndex m a b (b.toNat - a.toNat) s) : writeHead s = { s with ctl := .doneOk } := by
  rw [writeHead, h.length, h.index, if_neg (lt_irrefl _)]

end AtIndex

/-! ## Read -/

/-- The head of READ_WINDOWS after a data byte: the closing frame starts with no gap. -/
def afterData (s : State) : State := if (readHead s).ctl = .doneOk then startFrame .ok (readHead s) else readHead s

theorem readNext_eq (s : State) : readNext s = afterData { s with idx := s.idx + 1 } := rfl

theorem afterData_inside {m : BitVec 2} {a b : Addr} {i : Nat} {s : State} (h : AtIndex m a b i s)
    (inside : i < b.toNat - a.toNat) : afterData s = readHead s := by
  rw [afterData, if_neg]
  rw [h.readHead_eq inside]
  split <;> simp

theorem afterData_end {m : BitVec 2} {a b : Addr} {s : State} (h : AtIndex m a b (b.toNat - a.toNat) s) :
    afterData s = startFrame .ok { s with ctl := .doneOk } := by
  rw [afterData, h.readHead_end, if_pos rfl]

/-- R_TOKCHK takes one edge, to the transaction or to the abort (44_flow_control.md R243; log entry 17). -/
theorem simulates_compare {m : BitVec 2} {a b : Addr} {i : Nat} {s : State} (h : AtIndex m a b i s) :
    Simulates { s with ctl := .rTokchk }
      (if tokenMatches s.tok0 s.tok1 then .go { s with ctl := .rTokchk }
        else raiseAbort .flowDesync none { s with ctl := .rTokchk })
      (fun t => { t with ctl := .rRead }) (AtIndex m a b i) := by
  obtain ⟨sent, bus, mode, start, stop, index⟩ := h
  have edge : tick { s with ctl := .rTokchk } = .go (tickToken { s with ctl := .rTokchk }) := rfl
  split
  · rename_i good
    exact .go (.one (by simp) (by rw [edge, tickToken, if_pos good])) ⟨sent, bus, mode, start, stop, index⟩
  · rename_i bad
    exact .prepend (.one (by simp) (by rw [edge, tickToken, if_neg bad]))
      (simulates_raiseAbort .flowDesync none (s := { s with ctl := .rTokchk }) sent _ _)

/-- One token: both bytes, then the comparison (44_flow_control.md R242, R243). -/
theorem simulates_readToken {m : BitVec 2} {a b : Addr} {i : Nat} {s : State} (h : AtIndex m a b i s) :
    Simulates { s with ctl := .rToken0 } (readToken s) (fun t => { t with ctl := .rRead }) (AtIndex m a b i) := by
  obtain ⟨sent, bus, mode, start, stop, index⟩ := h
  refine (simulates_rx (fun b s => { s with tok0 := b }) (fun t => { t with ctl := .rToken1 })
    (s := { s with ctl := .rToken0 }) (by simp) fun t ht => by simp only [tick, ht]).andThen ?_
  rintro _ ⟨x, q, rfl⟩
  refine (simulates_rx (fun b s => { s with tok1 := b }) (fun t => { t with ctl := .rTokchk }) (by simp)
    fun t ht => by simp only [tick, ht]).andThen ?_
  rintro _ ⟨y, r, rfl⟩
  exact simulates_compare ⟨sent, bus, mode, start, stop, index⟩

theorem simulates_beforeByte {m : BitVec 2} {a b : Addr} {i : Nat} {s : State} (h : AtIndex m a b i s)
    (inside : i < b.toNat - a.toNat) :
    Simulates (readHead s) (beforeByte s) (fun t => { t with ctl := .rRead }) (AtIndex m a b i) := by
  rw [h.readHead_eq inside, beforeByte]
  split
  · exact simulates_readToken h
  · exact .go (.refl _) h

/-- READ_BYTE at R_READ. -/
theorem leads_readByte {s t : State} (hc : s.ctl = .rRead) (bus : s.busPhase = .idle)
    (h : readByte (byteAddr s) s = .go t) : Leads s { t with ctl := .rSend } := by
  refine leads_of_reaches (reaches_readByte hc bus h) ?_ ?_ <;>
  · unfold readByte at h
    split at h <;> cases h
    simp

theorem simulates_readAndSend {a b : Addr} {i : Nat} {s : State} (h : AtIndex modeRead a b i s) (range : validRange a b)
    (inside : i < b.toNat - a.toNat) :
    Simulates { s with ctl := .rRead } (readAndSend s) afterData (AtIndex modeRead a b (i + 1)) := by
  obtain ⟨t, ht⟩ : ∃ t, readByte (byteAddr s) { s with ctl := .rRead } = .go t := ⟨_, if_pos h.mode⟩
  have read := leads_readByte (s := { s with ctl := .rRead }) rfl h.bus ht
  have same : AtIndex modeRead a b i t := by
    obtain ⟨sent, bus, mode, start, stop, index⟩ := h
    rw [readByte, if_pos mode] at ht
    cases ht
    exact ⟨by simpa, rfl, by simpa, by simpa, by simpa, by simpa⟩
  rw [readAndSend, ht, go_andThen]
  refine .prepend read ((simulates_send (s := { t with ctl := .rSend }) rfl same.sent).andThen ?_)
  rintro _ rfl
  exact .go (.refl _) ⟨rfl, same.bus, same.mode, same.start, same.stop, same.next_index range inside⟩

theorem simulates_readElement {a b : Addr} {i : Nat} {s : State} (h : AtIndex modeRead a b i s) (range : validRange a b)
    (inside : i < b.toNat - a.toNat) :
    Simulates (readHead s) (readElement s) afterData (AtIndex modeRead a b (i + 1)) := by
  rw [readElement_eq]
  exact (simulates_beforeByte h inside).andThen fun t ht => simulates_readAndSend ht range inside

/-- The indices of a Read from `i` on; there is at least one. -/
theorem simulates_readElements {a b : Addr} (range : validRange a b) (n i : Nat) {s : State}
    (h : AtIndex modeRead a b i s) (left : i + (n + 1) = b.toNat - a.toNat) :
    Simulates (readHead s) (readElements (n + 1) s) (fun t => startFrame .ok { t with ctl := .doneOk })
      fun _ => True := by
  induction n generalizing i s with
  | zero =>
    refine (simulates_readElement h range (by omega)).andThen fun t ht => ?_
    obtain rfl : i = b.toNat - a.toNat - 1 := by omega
    rw [show b.toNat - a.toNat - 1 + 1 = b.toNat - a.toNat by omega] at ht
    rw [afterData_end ht]
    exact .go (.refl _) trivial
  | succ n ih =>
    refine (simulates_readElement h range (by omega)).andThen fun t ht => ?_
    rw [afterData_inside ht (by omega)]
    exact ih (i + 1) ht (by omega)

/-! ## Write -/

/-- W_GRANT (44_flow_control.md R245). -/
theorem simulates_writeGrant {m : BitVec 2} {a b : Addr} {i : Nat} {s : State} (h : AtIndex m a b i s) :
    Simulates { s with ctl := .wGrant } (writeGrant s) (fun t => { t with ctl := .wRecv }) (AtIndex m a b i) := by
  obtain ⟨sent, bus, mode, start, stop, index⟩ := h
  refine (simulates_emit (f := .co) (s := { s with ctl := .wGrant }) (next := fun t => { t with ctl := .wRecv })
    (by simp) (fun u hu => by simp only [tick, hu]) sent fun _ => ⟨rfl, rfl⟩).mono ?_
  rintro _ rfl
  exact ⟨emitted_frameBytes_txValid, bus, mode, start, stop, index⟩

theorem simulates_beforePayload {m : BitVec 2} {a b : Addr} {i : Nat} {s : State} (h : AtIndex m a b i s)
    (inside : i < b.toNat - a.toNat) :
    Simulates (writeHead s) (beforePayload s) (fun t => { t with ctl := .wRecv }) (AtIndex m a b i) := by
  rw [h.writeHead_eq inside, beforePayload]
  split
  · exact simulates_writeGrant h
  · exact .go (.refl _) h

/-- WRITE_BYTE at W_WRITE. -/
theorem leads_writeByte {s t : State} (hc : s.ctl = .wWrite) (bus : s.busPhase = .idle)
    (h : writeByte (byteAddr s) s.data s = .go t) : Leads s (writeHead { t with idx := t.idx + 1 }) := by
  have link : t.hostRx = s.hostRx ∧ t.rxReady = s.rxReady := by
    unfold writeByte at h
    split at h <;> cases h
    simp
  exact leads_of_reaches (reaches_writeByte hc bus h)
    ((writeHead_channel _).1.trans link.1) ((writeHead_channel _).2.trans link.2)

theorem simulates_receiveAndWrite {a b : Addr} {i : Nat} {s : State} (h : AtIndex modeWrite a b i s)
    (range : validRange a b) (inside : i < b.toNat - a.toNat) :
    Simulates { s with ctl := .wRecv } (receiveAndWrite s) writeHead (AtIndex modeWrite a b (i + 1)) := by
  obtain ⟨sent, bus, mode, start, stop, index⟩ := id h
  refine (simulates_rx (fun b s => { s with data := b }) (fun t => { t with ctl := .wWrite })
    (s := { s with ctl := .wRecv }) (by simp) fun t ht => by simp only [tick, ht]).andThen ?_
  rintro _ ⟨x, q, rfl⟩
  let u : State := { acceptByte x q s with data := x, ctl := .wWrite }
  obtain ⟨t, ht⟩ : ∃ t, writeByte (byteAddr u) u.data u = .go t := ⟨_, if_pos mode⟩
  have written := leads_writeByte (s := u) rfl bus ht
  have same : AtIndex modeWrite a b i t := by
    rw [writeByte, if_pos (show u.mode = modeWrite from mode)] at ht
    cases ht
    exact ⟨by simpa [u], rfl, by simpa [u], by simpa [u], by simpa [u], by simpa [u]⟩
  change Simulates u ((writeByte (byteAddr u) u.data u).andThen _) _ _
  rw [ht, go_andThen]
  exact .go written ⟨same.sent, same.bus, same.mode, same.start, same.stop, same.next_index range inside⟩

theorem simulates_writeElement {a b : Addr} {i : Nat} {s : State} (h : AtIndex modeWrite a b i s)
    (range : validRange a b) (inside : i < b.toNat - a.toNat) :
    Simulates (writeHead s) (writeElement s) writeHead (AtIndex modeWrite a b (i + 1)) := by
  rw [writeElement_eq]
  exact (simulates_beforePayload h inside).andThen fun t ht => simulates_receiveAndWrite ht range inside

/-- The indices of a Write from `i` on. -/
theorem simulates_writeElements {a b : Addr} (range : validRange a b) (n i : Nat) {s : State}
    (h : AtIndex modeWrite a b i s) (left : i + n = b.toNat - a.toNat) :
    Simulates (writeHead s) (writeElements n s) writeHead (AtIndex modeWrite a b (b.toNat - a.toNat)) := by
  induction n generalizing i s with
  | zero => exact .go (.refl _) (left ▸ h)
  | succ n ih =>
    exact (simulates_writeElement h range (by omega)).andThen fun t ht => ih (i + 1) ht (by omega)

/-! ## The commands -/

/-- The controller's state where a command's operands are in their registers: the frame has been received and the
instruction byte dispatched on (42_command_framer.md R184, R187). -/
def entry (i : Instr) (s : State) : State :=
  match i with
  | .status => { s with op := opStatus, ctl := .sOk }
  | .read a b => { s with op := opRead, startAddr := a, endAddr := b, ctl := .check }
  | .write a b => { s with op := opWrite, startAddr := a, endAddr := b, ctl := .check }
  | .unknown op => beginAbort .unknownCmd none { s with op := op }

/-- CHECK takes one edge, to the command's entry or to the abort of the check that failed (42_command_framer.md R188;
log entry 17). -/
theorem simulates_rangeCommand {op : Byte} {a b : Addr} {transfer : State → Flow} {label : Ctl} {s : State}
    (sent : s.txValid = false)
    (dispatched : op = opRead ∧ label = .rEnter ∨ op = opWrite ∧ label = .wEnter)
    (h : validRange a b →
      let u : State := { s with op := op, startAddr := a, endAddr := b, ctl := .check }
      Simulates { u with ctl := label } ((transfer u).andThen finishTransfer) id fun t => t.ctl = .sync 0) :
    Simulates { s with op := op, startAddr := a, endAddr := b, ctl := .check } (rangeCommand op a b transfer s) id
      fun t => t.ctl = .sync 0 := by
  let u : State := { s with op := op, startAddr := a, endAddr := b, ctl := .check }
  have edge : tick u = tickCheck u := rfl
  cases hv : validate a b with
  | some r =>
    obtain ⟨c, v⟩ := r
    rw [rangeCommand_of_invalid op transfer s hv]
    exact .prepend (.one (by simp) (edge.trans (tickCheck_of_invalid hv)))
      (simulates_raiseAbort c v (s := u) sent _ _)
  | none =>
    have range := (validate_eq_none a b).1 hv
    rw [rangeCommand_of_valid op transfer s range]
    refine .prepend (.one (by simp) ?_) (h range)
    rcases dispatched with ⟨rfl, rfl⟩ | ⟨rfl, rfl⟩
    · exact edge.trans (tickCheck_of_valid hv (.inl rfl))
    · exact edge.trans (tickCheck_of_valid hv (.inr rfl))

/-- A Read from R_ENTER (43_commands.md R216). -/
theorem simulates_readTransfer {a b : Addr} {s : State} (sent : s.txValid = false) (bus : s.busPhase = .idle)
    (start : s.startAddr = a) (stop : s.endAddr = b) (range : validRange a b) :
    Simulates { s with ctl := .rEnter } ((readTransfer s).andThen finishTransfer) id fun t => t.ctl = .sync 0 := by
  let u : State := { enterRead { s with ctl := .rEnter } with ctl := .rAnnounce }
  have entered : Leads { s with ctl := .rEnter } u := .one (by simp) rfl
  obtain ⟨n, hn⟩ : ∃ n, b.toNat - a.toNat = n + 1 := ⟨b.toNat - a.toNat - 1, by obtain ⟨below, -⟩ := range; omega⟩
  refine .prepend entered ?_
  unfold readTransfer
  rw [andThen_assoc]
  refine (simulates_emit (f := .co) (s := u) (next := fun t => readHead { t with idx := 0 }) (by simp [u])
    (fun t ht => by simp only [tick, ht, u]) sent fun t => readHead_channel { t with idx := 0 }).andThen ?_
  rintro _ rfl
  let v : State := { emitted (frameBytes .co u) u with idx := 0 }
  have first : AtIndex modeRead a b 0 v := ⟨emitted_frameBytes_txValid (f := .co) (s := u), bus, rfl, start, stop, rfl⟩
  change Simulates (readHead v) ((readElements (rangeLen v) v).andThen finishTransfer) _ _
  rw [first.length, hn]
  exact (simulates_readElements range n 0 first (by omega)).andThen fun t _ => simulates_finish_started t

/-- A Write from W_ENTER (43_commands.md R220). -/
theorem simulates_writeTransfer {a b : Addr} {s : State} (sent : s.txValid = false) (bus : s.busPhase = .idle)
    (start : s.startAddr = a) (stop : s.endAddr = b) (range : validRange a b) :
    Simulates { s with ctl := .wEnter } ((writeTransfer s).andThen finishTransfer) id fun t => t.ctl = .sync 0 := by
  let v : State := { enterWrite { s with ctl := .wEnter } with idx := 0 }
  have first : AtIndex modeWrite a b 0 v := ⟨sent, bus, rfl, start, stop, rfl⟩
  refine .prepend (t := writeHead v) (.one (by simp) rfl) ?_
  change Simulates (writeHead v) ((writeElements (rangeLen v) v).andThen finishTransfer) _ _
  rw [first.length]
  refine (simulates_writeElements range _ 0 first (by omega)).andThen fun t ht => ?_
  rw [ht.writeHead_end]
  exact simulates_finish_from ht.sent

/-- From a command's entry the edges lead to the state that the command answers, where the CORE rests. -/
theorem leads_exec (i : Instr) {s : State} (sent : s.txValid = false) (bus : s.busPhase = .idle) :
    ∃ t, exec i s = .next t ∧ Leads (entry i s) t ∧ Rests t := by
  cases i with
  | status =>
    refine Simulates.outcome (Simulates.andThen (simulates_emit (f := .ok) (s := entry .status s)
      (next := fun t => { t with ctl := .sync 0 }) (by simp [entry])
      (fun t ht => by simp only [tick, ht, entry]) sent fun _ => ⟨rfl, rfl⟩) fun t _ => .go (.refl _) rfl)
  | read a b =>
    exact Simulates.outcome (simulates_rangeCommand sent (.inl ⟨rfl, rfl⟩)
      fun range => simulates_readTransfer sent bus rfl rfl range)
  | write a b =>
    exact Simulates.outcome (simulates_rangeCommand sent (.inr ⟨rfl, rfl⟩)
      fun range => simulates_writeTransfer sent bus rfl rfl range)
  | unknown op => exact Simulates.outcome (simulates_raiseAbort .unknownCmd none (s := { s with op := op }) sent _ _)

end Sys2Proof.Machine
end

section
/-! PROOFS. A frame byte by byte: the clocked controller receives it and reaches its command's entry, so that it
reaches what the command answers (42_command_framer.md R182 to R187; log entry 1). -/

namespace Sys2Proof.Machine

open Sys2Proof.Safety

/-! ## The bytes of a frame -/

/-- A frame begins with `'S'`. -/
theorem encode_eq_cons (i : Instr) : encode i = 0x53 :: (encode i).tail := by
  cases i <;> rfl

/-- A byte taken in the sync scan. -/
def scannedByte (k : Fin 4) (b : Byte) (q : List Byte) (s : State) : State :=
  { s with ctl := syncNext s.cfg.syncRetest k b, rxReady := false, hostRx := q, trace := s.trace ++ [.rx b] }

theorem leads_sync {s : State} {k : Fin 4} {b : Byte} {q : List Byte} (hk : k ≠ 0) (hc : s.ctl = .sync k)
    (hq : s.hostRx = b :: q) : Leads s (scannedByte k b q s) :=
  leads_rx _ (by simpa [hc] using hk) (fun _ ht => tick_sync (ht.trans hc)) hq

/-- The bytes waiting in ADDRn go into the operands. -/
theorem leads_addrBytes (n : Nat) (bs rest : List Byte) {s : State} (hn : n + bs.length ≤ 6)
    (hc : s.ctl = addrLabel n) (hx : s.rxReady = false) (hq : s.hostRx = bs ++ rest) :
    Leads s { storeAddrBytes n bs s with
      ctl := addrLabel (n + bs.length), rxReady := false, hostRx := rest, trace := s.trace ++ bs.map Event.rx } := by
  induction bs generalizing n s with
  | nil =>
    obtain rfl : s.hostRx = rest := hq
    simpa [storeAddrBytes, ← hc, ← hx] using Leads.refl s
  | cons b bs ih =>
    rw [List.length_cons] at hn
    have hlt : n < 6 := by omega
    have label : s.ctl = .addr ⟨n, hlt⟩ := hc.trans (addrLabel_of_lt hlt)
    let t : State := { storeAddrByte ⟨n, hlt⟩ b s with
      ctl := addrNext ⟨n, hlt⟩, rxReady := false, hostRx := bs ++ rest, trace := s.trace ++ [.rx b] }
    have first : Leads s t := by
      have taken := leads_rx (fun b u => { storeAddrByte ⟨n, hlt⟩ b u with ctl := addrNext ⟨n, hlt⟩ }) (s := s)
        (q := bs ++ rest) (by simp [label]) (fun u hu => tick_addr (hu.trans label)) hq
      rw [acceptByte, storeAddrByte_update] at taken
      exact taken
    have others := ih (n + 1) (s := t) (by omega) (addrNext_eq_addrLabel ⟨n, hlt⟩) rfl rfl
    refine first.trans ?_
    simpa [t, storeAddrBytes_cons hlt, storeAddrBytes_update, Nat.add_assoc, Nat.add_comm 1] using others

/-- The operands of a range command, after its instruction byte. -/
theorem leads_operands (a b : Addr) {s : State} {rest : List Byte} (hc : s.ctl = .addr 0) (hx : s.rxReady = false)
    (hq : s.hostRx = addrBytes a ++ addrBytes b ++ rest) :
    Leads s { s with
      startAddr := a, endAddr := b, ctl := .check, rxReady := false, hostRx := rest
      trace := s.trace ++ (addrBytes a ++ addrBytes b).map Event.rx } := by
  have all := leads_addrBytes 0 (addrBytes a ++ addrBytes b) rest (s := s) (by simp [addrBytes]) hc hx hq
  have stored : storeAddrBytes 0 (addrBytes a ++ addrBytes b) s = { s with startAddr := a, endAddr := b } := by
    rw [show addrBytes a ++ addrBytes b = [a.extractLsb' 16 8, a.extractLsb' 8 8, a.extractLsb' 0 8,
      b.extractLsb' 16 8, b.extractLsb' 8 8, b.extractLsb' 0 8] from rfl, storeAddrBytes_six, assembleAddr_extract,
      assembleAddr_extract]
  rw [stored] at all
  exact all

/-- The instruction byte and the operands, if the command has any. -/
theorem leads_instr {i : Instr} {s : State} {rest : List Byte} (hi : i.wellFormed = true) (hc : s.ctl = .instr)
    (hq : s.hostRx = (encode i).drop 4 ++ rest) :
    Leads s (entry i { s with
      rxReady := false, hostRx := rest, trace := s.trace ++ ((encode i).drop 4).map Event.rx }) := by
  have first : ∀ b q, s.hostRx = b :: q →
      Leads s (dispatchOp { acceptByte b q s with op := b }) := fun b q h =>
    leads_rx (fun b s => dispatchOp { s with op := b }) (by simp [hc]) (fun _ ht => tick_instr (ht.trans hc)) h
  cases i with
  | status =>
    have := first _ _ hq
    rw [dispatchOp_eq] at this
    exact this
  | unknown op =>
    obtain ⟨hs, hr, hw⟩ := wellFormed_unknown.1 hi
    have := first _ _ hq
    rw [dispatchOp, if_neg hs, if_neg hr, if_neg hw] at this
    exact this
  | read a b =>
    have dispatched := first opRead (addrBytes a ++ addrBytes b ++ rest) hq
    rw [dispatchOp_eq] at dispatched
    refine dispatched.trans ?_
    have operands := leads_operands a b (s := { acceptByte opRead (addrBytes a ++ addrBytes b ++ rest) s with
      op := opRead, ctl := .addr 0 }) rfl rfl rfl
    simpa [entry, encode, syncMarker, acceptByte, opRead] using operands
  | write a b =>
    have dispatched := first opWrite (addrBytes a ++ addrBytes b ++ rest) hq
    rw [dispatchOp_eq] at dispatched
    refine dispatched.trans ?_
    have operands := leads_operands a b (s := { acceptByte opWrite (addrBytes a ++ addrBytes b ++ rest) s with
      op := opWrite, ctl := .addr 0 }) rfl rfl rfl
    simpa [entry, encode, syncMarker, acceptByte, opWrite] using operands

/-- A frame whose `'S'` has been taken: from SYNC1 the rest of it leads to the command's entry. -/
theorem leads_frame {i : Instr} {s : State} {rest : List Byte} (hi : i.wellFormed = true) (hc : s.ctl = .sync 1)
    (hq : s.hostRx = (encode i).tail ++ rest) :
    Leads s (entry i { s with
      rxReady := false, hostRx := rest, trace := s.trace ++ (encode i).tail.map Event.rx }) := by
  have marker : (encode i).tail = [0x52, 0x41, 0x4D] ++ (encode i).drop 4 := by cases i <;> rfl
  rw [marker] at hq ⊢
  let s2 := scannedByte 1 0x52 ([0x41, 0x4D] ++ (encode i).drop 4 ++ rest) s
  let s3 := scannedByte 2 0x41 ([0x4D] ++ (encode i).drop 4 ++ rest) s2
  let s4 := scannedByte 3 0x4D ((encode i).drop 4 ++ rest) s3
  have h2 : Leads s s2 := leads_sync (by decide) hc hq
  have h3 : Leads s2 s3 := leads_sync (by decide) rfl rfl
  have h4 : Leads s3 s4 := leads_sync (by decide) rfl rfl
  have h5 := leads_instr hi (s := s4) (rest := rest) rfl rfl
  refine h2.trans (h3.trans (h4.trans ?_))
  have same : entry i { s4 with
        rxReady := false, hostRx := rest, trace := s4.trace ++ ((encode i).drop 4).map Event.rx } =
      entry i { s with
        rxReady := false, hostRx := rest
        trace := s.trace ++ ([0x52, 0x41, 0x4D] ++ (encode i).drop 4).map Event.rx } := by
    cases i <;> simp [entry, beginAbort, s4, s3, s2, scannedByte]
  rwa [same] at h5

/-! ## The refinement -/

/-- A command's entry does not depend on the label that it is reached from. -/
theorem entry_ctl (i : Instr) (c : Ctl) (s : State) : entry i { s with ctl := c } = entry i s := by
  cases i <;> rfl

theorem syncNext_S (retest : Bool) (k : Fin 4) (h : k = 0 ∨ retest = true) : syncNext retest k 0x53 = .sync 1 := by
  rcases h with rfl | rfl
  · rfl
  · fin_cases k <;> rfl

/-- Where the scan takes `'S'` to SYNC1, the frame that begins with it reaches its command's entry. -/
theorem leads_frame_after {i : Instr} {s : State} {k : Fin 4} {rest : List Byte} (hi : i.wellFormed = true)
    (found : k = 0 ∨ s.cfg.syncRetest = true) :
    Leads (scannedByte k 0x53 ((encode i).tail ++ rest) s) (entry i { s with
      rxReady := false, hostRx := rest, trace := s.trace ++ (encode i).map Event.rx }) := by
  have h := leads_frame hi (s := scannedByte k 0x53 ((encode i).tail ++ rest) s) (rest := rest)
    (syncNext_S _ k found) rfl
  rw [encode_eq_cons i]
  rw [← entry_ctl i (.sync 0)] at h ⊢
  simpa [scannedByte] using h

/-- Settles O50: the first byte is taken from SYNC0, the others on the way to the command's entry, and from there the
edges do the command. -/
theorem clockedReachesCommandEnd : Obligations.ClockedReachesCommandEnd := by
  intro s i rest hc sent bus hd
  obtain ⟨hi, hq⟩ := encodeInvertsDecode _ _ _ hd
  have first : Reaches s (scannedByte 0 0x53 ((encode i).tail ++ rest) s) :=
    reaches_rx (fun b s => { s with ctl := syncNext s.cfg.syncRetest 0 b }) (fun t ht => tick_sync (ht.trans hc))
      (by rw [hq, encode_eq_cons i]; rfl)
  have frame := leads_frame_after (s := s) (rest := rest) hi (.inl rfl)
  rw [acceptFrame_of_frame hq]
  obtain ⟨t, answered, way, -⟩ := leads_exec i (s := { s with
    rxReady := false, hostRx := rest, trace := s.trace ++ (encode i).map Event.rx }) sent bus
  obtain ⟨k, hk⟩ := first.trans (frame.trans way).reaches
  exact ⟨k, t, hk, answered⟩

/-! ## Noise before a frame -/

/-- Noise does not look like a frame where the scan starts: four of its bytes would complete the marker, and fewer are
followed by the frame's `'S'` where the marker has another byte. -/
theorem decode_noise {retest : Bool} {b : Byte} {noise : List Byte} {j : Fin 4}
    (scan : scanned retest (.sync 0) (b :: noise) = .sync j) (i : Instr) (rest : List Byte) (r : Instr × List Byte) :
    decode (b :: noise ++ encode i ++ rest) ≠ .ok r := by
  intro h
  obtain ⟨op, q, hq, -⟩ := decode_eq_ok h
  rw [encode_eq_cons i] at hq
  match noise with
  | [] => simp [syncMarker, syncByte] at hq
  | [_] => simp [syncMarker, syncByte] at hq
  | [_, _] => simp [syncMarker, syncByte] at hq
  | c :: d :: e :: more =>
    simp only [syncMarker, syncByte, List.cons_append, List.cons.injEq] at hq
    obtain ⟨rfl, rfl, rfl, rfl, -⟩ := hq
    have complete : scanned retest (.sync 0) (0x53 :: 0x52 :: 0x41 :: 0x4D :: more) = .instr := by
      cases more <;> rfl
    rw [complete] at scan
    cases scan

/-- A byte that is no part of a waiting frame takes one or two steps. -/
theorem run_scannedByte {s : State} {k : Fin 4} {b : Byte} {q : List Byte} (hr : running s) (hc : s.ctl = .sync k)
    (hq : s.hostRx = b :: q) (hd : k = 0 → ∀ r, decode s.hostRx ≠ .ok r) :
    ∃ n, run n s = .next (scannedByte k b q s) := by
  have hf : ∀ x, fetch { s with rxReady := x } = none := fun x => by
    by_cases hk : k = 0
    · exact fetch_of_not_decodes (hd hk)
    · exact fetch_of_ctl (by simpa [hc] using hk)
  have take : step { s with rxReady := true } = .next (scannedByte k b q s) :=
    step_rx_take (s := { s with rxReady := true }) hr (hf true) (tick_sync hc) rfl hq
  cases up : s.rxReady with
  | true => rw [← up] at take; exact ⟨1, (run_one s).trans take⟩
  | false =>
    have raised := step_rx_raise hr (hf s.rxReady) (tick_sync hc) up
    exact ⟨2, by rw [run_succ_next 1 raised, run_one, take]⟩

theorem scanned_instr (retest : Bool) (bs : List Byte) : scanned retest .instr bs = .instr := by
  cases bs <;> rfl

theorem syncNext_label (retest : Bool) (k : Fin 4) (b : Byte) :
    (∃ l, syncNext retest k b = .sync l) ∨ syncNext retest k b = .instr := by
  rw [syncNext_eq, syncAdvance]
  split_ifs <;> simp

/-- Noise that completes no marker is received and only moves the scan. -/
theorem run_noise (noise : List Byte) {s : State} {k j : Fin 4} {i : Instr} {rest : List Byte} (hr : running s)
    (hc : s.ctl = .sync k) (hq : s.hostRx = noise ++ encode i ++ rest)
    (scan : scanned s.cfg.syncRetest (.sync k) noise = .sync j) :
    ∃ n x, run n s = .next { s with
      ctl := .sync j, rxReady := x, hostRx := encode i ++ rest, trace := s.trace ++ noise.map Event.rx } := by
  induction noise generalizing k s with
  | nil =>
    obtain rfl : k = j := by simpa using scan
    exact ⟨0, s.rxReady, by simp [← hc, ← (show s.hostRx = encode i ++ rest from hq)]⟩
  | cons b noise ih =>
    obtain ⟨n, first⟩ := run_scannedByte (q := noise ++ encode i ++ rest) hr hc hq fun hk r => by
      subst hk
      rw [hq]
      exact decode_noise scan i rest r
    rw [scanned_cons] at scan
    obtain ⟨l, hl⟩ : ∃ l, syncNext s.cfg.syncRetest k b = .sync l := by
      refine (syncNext_label _ k b).resolve_right fun complete => ?_
      rw [complete, scanned_instr] at scan
      cases scan
    rw [hl] at scan
    obtain ⟨m, x, others⟩ := ih (s := scannedByte k b (noise ++ encode i ++ rest) s) hr hl rfl scan
    exact ⟨n + m, x, by rw [run_add n m first, others]; simp [scannedByte]⟩

/-- Settles O9: after the noise the frame is received whole from SYNC0; from another label of the scan the retest
finds its `'S'` and the rest is received byte by byte. -/
theorem noiseThenFrame : Obligations.NoiseThenFrame := by
  intro s noise i rest hr hc hi hq u
  have whole : scanned s.cfg.syncRetest (.sync 0) noise = .sync 0 → ∃ k, run k s = exec i u := fun scan => by
    obtain ⟨n, x, after⟩ := run_noise noise hr hc hq scan
    have frame := step_of_frame (s := { s with
      ctl := .sync 0, rxReady := x, hostRx := encode i ++ rest, trace := s.trace ++ noise.map Event.rx }) hr rfl hi rfl
    refine ⟨n + 1, ?_⟩
    rw [run_add n 1 after, run_one, frame, ← hc]
    simp [u]
  refine ⟨whole, fun j retest scan sent bus => ?_⟩
  by_cases hj : j = 0
  · subst hj
    exact whole (retest ▸ scan)
  · obtain ⟨n, x, after⟩ := run_noise noise hr hc hq (retest ▸ scan)
    let v : State := { s with
      ctl := .sync j, rxReady := x, hostRx := encode i ++ rest, trace := s.trace ++ noise.map Event.rx }
    have found : Leads v (scannedByte j 0x53 ((encode i).tail ++ rest) v) :=
      leads_sync hj rfl (congrArg (· ++ rest) (encode_eq_cons i))
    have frame := leads_frame_after (s := v) (k := j) (rest := rest) hi (.inr retest)
    obtain ⟨t, answered, way, -⟩ := leads_exec i (s := u) sent bus
    have same : entry i { v with rxReady := false, hostRx := rest, trace := v.trace ++ (encode i).map Event.rx } =
        entry i u := by
      rw [← entry_ctl i (.sync 0), ← entry_ctl i (.sync 0) u]
      simp [v, u]
    rw [same] at frame
    obtain ⟨-, m, hm⟩ := run_of_leads (found.trans (frame.trans way)) hr
    exact ⟨n + m, by rw [run_add n m after, hm, answered]⟩

end Sys2Proof.Machine
end

section
/-! PROOFS. A command that waits goes on when the host does (10_state.md R28, R29; 70_reset_and_hazards.md R354): an
edge that does something does the same with more bytes waiting and the sink ready. -/

namespace Sys2Proof.Machine

open Sys2Proof.Safety

/-- The host sends the bytes `q` and sets `tx_ready`. -/
def supply (q : List Byte) (r : Bool) (s : State) : State := { s with hostRx := s.hostRx ++ q, txReady := r }

/-! ## The edges of a frame, one by one -/

section
variable (f : FrameKind) (next : State → State) {s : State}

/-- The first edge offers the frame's first byte. -/
theorem tickEmit_offer (offered : s.txValid = false) : tickEmit f next s = startFrame f s := by simp [tickEmit, offered]

variable {f}

/-- Where the host accepts a byte that is not the last, the next one is offered at once. -/
theorem tickEmit_more (offered : s.txValid = true) (accepts : s.txReady = true) {b : Byte}
    (h : (frameBytes f s)[s.encPos + 1]? = some b) :
    tickEmit f next s = offerByte b { byteTaken s with encFrame := some f, encPos := s.encPos + 1 } := by
  simp [tickEmit, offered, accepts, h]

/-- Where the host accepts the last byte, the frame is over. -/
theorem tickEmit_last (offered : s.txValid = true) (accepts : s.txReady = true)
    (h : (frameBytes f s)[s.encPos + 1]? = none) :
    tickEmit f next s = next { byteTaken s with encFrame := none, encPos := 0 } := by
  simp only [tickEmit, offered, accepts, h, if_true]

end

section
variable {q : List Byte} {r : Bool} {s : State}

/-! ## Operations that the host does not take part in -/

/-- An operation does the same whatever the host supplies. -/
def Supplied (q : List Byte) (r : Bool) (f : State → State) : Prop := ∀ s, f (supply q r s) = supply q r (f s)

theorem supplied_readHead : Supplied q r readHead := fun s => by
  unfold readHead
  rw [apply_ite (supply q r), apply_ite (supply q r)]
  rfl

theorem supplied_writeHead : Supplied q r writeHead := fun s => by
  unfold writeHead
  rw [apply_ite (supply q r), apply_ite (supply q r)]
  rfl

theorem supplied_readNext : Supplied q r readNext := fun s => by
  have head := supplied_readHead (q := q) (r := r) { s with idx := s.idx + 1 }
  simp only [readNext] at head ⊢
  rw [apply_ite (supply q r)]
  have index : ({ supply q r s with idx := (supply q r s).idx + 1 } : State) =
      supply q r { s with idx := s.idx + 1 } := rfl
  rw [index, head]
  rfl

theorem supplied_dispatchOp : Supplied q r dispatchOp := fun s => by
  simp only [dispatchOp_eq]
  rfl

theorem supplied_storeAddrByte (k : Fin 6) (b : Byte) : Supplied q r (storeAddrByte k b) := fun s => by
  fin_cases k <;> rfl

theorem supplied_tickToken : Supplied q r tickToken := fun s => by
  unfold tickToken
  rw [apply_ite (supply q r)]
  rfl

theorem supplied_afterErrorFrame : Supplied q r afterErrorFrame := fun s => by
  unfold afterErrorFrame
  rw [apply_ite (supply q r)]
  rfl

theorem supplied_tickSettle {next : State → State} (h : Supplied q r next) :
    Supplied q r (tickSettle next) := fun s => by
  unfold tickSettle
  rw [apply_ite (supply q r), h s]
  rfl

theorem supplied_nextBit : Supplied q r nextBit := fun s => by
  unfold nextBit
  rw [apply_ite (supply q r)]
  rfl

theorem supplied_tickSerialize : Supplied q r tickSerialize := fun s => by
  have same : (supply q r s).serPhase = s.serPhase := rfl
  cases hp : s.serPhase <;> simp only [tickSerialize, same, hp]
  case data | rise | fall => rfl
  case settleData | settleRise => refine supplied_tickSettle ?_ s; exact fun _ => rfl
  case settleFall => exact supplied_tickSettle supplied_nextBit s

theorem supplied_tickAddress : Supplied q r tickAddress := fun s => by
  rw [tickAddress_eq, tickAddress_eq, supplied_tickSerialize s, addressDone, addressDone, apply_ite (supply q r)]
  rfl

/-! ## Edges of the host-stream primitives -/

theorem tickRx_supply {store : Byte → State → State} (h : ∀ b, Supplied q r (store b)) (moved : tickRx store s ≠ s) :
    tickRx store (supply q r s) = supply q r (tickRx store s) := by
  cases up : s.rxReady with
  | false => simp [tickRx, supply, up]
  | true =>
    cases hq : s.hostRx with
    | nil => exact absurd (by simp [tickRx, up, hq]) moved
    | cons b rest =>
      have taken : tickRx store s = store b (acceptByte b rest s) := by simp [tickRx, up, hq]
      rw [taken, ← h b]
      simp [tickRx, supply, up, hq, acceptByte]

theorem tickTx_supply {b : Byte} {next : State → State} (h : Supplied q r next) (ready : s.txReady = true → r = true)
    (moved : tickTx b next s ≠ s) : tickTx b next (supply q r s) = supply q r (tickTx b next s) := by
  cases offered : s.txValid with
  | false => simp [tickTx, supply, offered, offerByte]
  | true =>
    cases accepts : s.txReady with
    | false => exact absurd (tickTx_wait b next offered accepts) moved
    | true =>
      have taken : tickTx b next s = next (byteTaken s) := by simp [tickTx, offered, accepts]
      rw [taken, ← h]
      simp [tickTx, supply, offered, ready accepts, byteTaken]

theorem frameBytes_supply (f : FrameKind) : frameBytes f (supply q r s) = frameBytes f s :=
  frameBytes_congr f rfl rfl rfl

theorem tickEmit_supply {f : FrameKind} {next : State → State} (h : Supplied q r next)
    (ready : s.txReady = true → r = true) (moved : tickEmit f next s ≠ s) :
    tickEmit f next (supply q r s) = supply q r (tickEmit f next s) := by
  cases offered : s.txValid with
  | false =>
    rw [tickEmit_offer f next offered, tickEmit_offer f next (s := supply q r s) offered, startFrame, frameBytes_supply]
    rfl
  | true =>
    cases accepts : s.txReady with
    | false => exact absurd (tickEmit_wait f next offered accepts) moved
    | true =>
      have same : (frameBytes f (supply q r s))[(supply q r s).encPos + 1]? = (frameBytes f s)[s.encPos + 1]? := by
        rw [frameBytes_supply]
        rfl
      cases hb : (frameBytes f s)[s.encPos + 1]? with
      | some b =>
        rw [tickEmit_more next offered accepts hb,
          tickEmit_more (s := supply q r s) next offered (ready accepts) (same.trans hb)]
        rfl
      | none =>
        rw [tickEmit_last next offered accepts hb,
          tickEmit_last (s := supply q r s) next offered (ready accepts) (same.trans hb), ← h]
        rfl

/-! ## Every edge -/

theorem tickCheck_supply {t : State} (edge : tickCheck s = .go t) : tickCheck (supply q r s) = .go (supply q r t) := by
  cases hv : validate s.startAddr s.endAddr with
  | some p =>
    obtain ⟨c, v⟩ := p
    rw [tickCheck_of_invalid hv] at edge
    cases edge
    exact tickCheck_of_invalid (s := supply q r s) hv
  | none =>
    have dispatched : s.op = opRead ∨ s.op = opWrite := by
      by_contra other
      rw [not_or] at other
      rw [tickCheck, hv] at edge
      simp only [if_neg other.1, if_neg other.2] at edge
      cases edge
    rw [tickCheck_of_valid hv dispatched] at edge
    cases edge
    exact tickCheck_of_valid (s := supply q r s) hv dispatched

theorem tickRead_supply {t : State} (edge : tickRead s = .go t) : tickRead (supply q r s) = .go (supply q r t) := by
  have bus : (supply q r s).busPhase = s.busPhase := rfl
  have same : ∀ {u v : State}, Flow.go u = .go t → v = supply q r u → Flow.go v = .go (supply q r t) :=
    fun hu hv => by cases hu; rw [hv]
  cases hb : s.busPhase <;> simp only [tickRead, bus, hb] at edge ⊢
  case idle =>
    by_cases hm : s.mode = modeRead
    · rw [if_pos hm] at edge
      rw [if_pos (show (supply q r s).mode = modeRead from hm)]
      exact same edge rfl
    · rw [if_neg hm] at edge
      cases edge
  case serialize => exact same edge (supplied_tickAddress s)
  case settleAddr | settleEnable => refine same edge (supplied_tickSettle ?_ s); exact fun _ => rfl
  case assertEnable | sample | deassert => exact same edge rfl
  case drive | settleHold => cases edge

theorem tickWrite_supply {t : State} (edge : tickWrite s = .go t) : tickWrite (supply q r s) = .go (supply q r t) := by
  have bus : (supply q r s).busPhase = s.busPhase := rfl
  have same : ∀ {u v : State}, Flow.go u = .go t → v = supply q r u → Flow.go v = .go (supply q r t) :=
    fun hu hv => by cases hu; rw [hv]
  cases hb : s.busPhase <;> simp only [tickWrite, bus, hb] at edge ⊢
  case idle =>
    by_cases hm : s.mode = modeWrite
    · rw [if_pos hm] at edge
      rw [if_pos (show (supply q r s).mode = modeWrite from hm)]
      exact same edge rfl
    · rw [if_neg hm] at edge
      cases edge
  case serialize => exact same edge (supplied_tickAddress s)
  case settleAddr | settleEnable => refine same edge (supplied_tickSettle ?_ s); exact fun _ => rfl
  case drive | assertEnable | deassert => exact same edge rfl
  case settleHold =>
    refine same edge (supplied_tickSettle ?_ s)
    exact fun u => supplied_writeHead { u with busPhase := .idle, idx := u.idx + 1 }
  case sample => cases edge

/-- An edge that does something does the same with more bytes waiting and the sink ready. -/
theorem tick_supply {t : State} (ready : s.txReady = true → r = true) (edge : tick s = .go t) (moved : t ≠ s) :
    tick (supply q r s) = .go (supply q r t) := by
  have label : (supply q r s).ctl = s.ctl := rfl
  have same : ∀ {u v : State}, Flow.go u = .go t → (u ≠ s → v = supply q r u) → Flow.go v = .go (supply q r t) :=
    fun hu hv => by cases hu; rw [hv moved]
  cases hc : s.ctl <;> simp only [tick, label, hc] at edge ⊢
  case sync k => refine same edge (tickRx_supply ?_); exact fun _ _ => rfl
  case instr => exact same edge (tickRx_supply fun b u => supplied_dispatchOp { u with op := b })
  case addr k =>
    exact same edge (tickRx_supply fun b u =>
      congrArg (fun v : State => { v with ctl := addrNext k }) (supplied_storeAddrByte k b u))
  case rToken0 | rToken1 | wRecv => refine same edge (tickRx_supply ?_); exact fun _ _ => rfl
  case check => exact tickCheck_supply edge
  case sOk | wGrant | doneOk => refine same edge (tickEmit_supply ?_ ready); exact fun _ => rfl
  case rEnter | doneIdle | errIdle => exact same edge fun _ => rfl
  case rAnnounce => exact same edge (tickEmit_supply (fun u => supplied_readHead { u with idx := 0 }) ready)
  case rTokchk => exact same edge fun _ => supplied_tickToken s
  case rRead => exact tickRead_supply edge
  case rSend => exact same edge (tickTx_supply supplied_readNext ready)
  case wEnter => exact same edge fun _ => supplied_writeHead { enterWrite s with idx := 0 }
  case wWrite => exact tickWrite_supply edge
  case errEmit => exact same edge (tickEmit_supply supplied_afterErrorFrame ready)

/-- A way goes on the same way: its waits are no part of it. -/
theorem Leads.supply {t : State} (h : Leads s t) (ready : s.txReady = true → r = true) :
    Leads (Machine.supply q r s) (Machine.supply q r t) := by
  induction h with
  | refl s => exact .refl _
  | @head s t u away edge rest ih =>
    obtain ⟨-, -, -, -, sink, -, -⟩ := accounts_tick edge
    by_cases moved : t = s
    · subst moved
      exact ih ready
    · exact .head away (tick_supply ready edge moved) (ih (sink ▸ ready))

end

/-! ## The command's end -/

/-- Of two ways from one state, the one that comes to rest is as long as the other or longer. -/
theorem Leads.to_rest {s t u : State} (h : Leads s t) (r : Leads s u) (rests : Rests u) : Leads t u := by
  rcases h.linear r with before | after
  · exact before
  · rcases rests with done | waits
    · cases after with
      | refl => exact .refl _
      | head away _ _ => exact absurd done away
    · rw [after.eq_of_fixed waits]
      exact .refl _

theorem running_entry {s : State} (hr : running s) (i : Instr) : running (entry i s) := by
  cases i <;> exact hr

theorem entry_supply (q : List Byte) (r : Bool) (i : Instr) (s : State) :
    entry i (supply q r s) = supply q r (entry i s) := by
  cases i <;> rfl

theorem entry_txReady (i : Instr) (s : State) : (entry i s).txReady = s.txReady := by
  cases i <;> rfl

/-- Settles O55: the way to the wait is, with more supplied, the beginning of the way to the end. -/
theorem commandResumesAfterWait : Obligations.CommandResumesAfterWait := by
  intro i s t u q r hr sent bus ready answered resumed
  obtain ⟨t', answered', toWait, -⟩ := leads_exec i sent bus
  obtain ⟨u', resumed', toEnd, rests⟩ := leads_exec i (s := supply q r s) sent bus
  obtain rfl := Host.Outcome.next.inj (answered'.symm.trans answered)
  obtain rfl := Host.Outcome.next.inj (resumed'.symm.trans resumed)
  rw [entry_supply] at toEnd
  have supplied : Leads (supply q r (entry i s)) (supply q r t') :=
    toWait.supply (by rw [entry_txReady]; exact ready)
  have waiting : running (supply q r t') := (run_of_leads toWait (running_entry hr i)).1
  exact (run_of_leads (supplied.to_rest toEnd rests) waiting).2

end Sys2Proof.Machine
end

section
/-! PROOFS. The invariant of the controller (41_bus_mode_controller.md, section 4): its parts, label by label, and the
edges that keep them. -/

namespace Sys2Proof.Safety

open Sys2Proof Sys2Proof.Machine

/-- An edge completes, in a state of which `p` holds. -/
def Goes (p : State → Prop) : Flow → Prop
  | .go t => p t
  | .stop _ => False
  | .fault _ => False

/-! ## The parts of the invariant -/

/-- The transaction in progress: its phases, the enables inside them, SERIALIZE and its clock. -/
def BusOk (s : State) : Prop :=
  (s.oeAct = true → s.ctl = .rRead ∧ (s.busPhase = .settleEnable ∨ s.busPhase = .sample ∨ s.busPhase = .deassert)) ∧
  (s.weAct = true → s.ctl = .wWrite ∧ (s.busPhase = .settleEnable ∨ s.busPhase = .deassert)) ∧
  (s.busPhase ≠ .idle → s.ctl = .rRead ∨ s.ctl = .wWrite) ∧
  (s.ctl = .rRead → s.busPhase ≠ .drive ∧ s.busPhase ≠ .settleHold) ∧
  (s.ctl = .wWrite → s.busPhase ≠ .sample) ∧
  (s.serPhase ≠ .idle ↔ s.busPhase = .serialize) ∧
  (s.srClk = true → s.serPhase = .settleRise ∨ s.serPhase = .fall)

/-- The handshakes and the frame in progress belong to the label. -/
def LinkOk (s : State) : Prop :=
  (s.rxReady = true → receives s.ctl = true) ∧ (s.txValid = true → sends s.ctl = true) ∧
  (s.encFrame = none ∨ s.encFrame = frameAt s.ctl)

/-- The mode is legal and gives the direction of the data lines. -/
def ModeOk (s : State) : Prop := s.mode ≠ modeIllegal ∧ (s.dOe = true ↔ s.mode = modeWrite)

/-- The mode outside transfers and aborts (41_bus_mode_controller.md R164). -/
def RestMode (s : State) : Prop := s.mode = modeIdle ∨ (s.mode = modeRead ∧ s.cfg.abortToIdle = false)

/-- The range and the index of a byte's transfer. -/
def Inside (s : State) : Prop := validRange s.startAddr s.endAddr ∧ s.idx.toNat < rangeLen s

/-- What the invariant asks at each label. -/
def AtLabel (s : State) : Prop :=
  match s.ctl with
  | .sync _ | .instr | .sOk => RestMode s ∧ s.cause = .none
  | .addr _ | .check => RestMode s ∧ s.cause = .none ∧ (s.op = opRead ∨ s.op = opWrite)
  | .rEnter | .wEnter => RestMode s ∧ s.cause = .none ∧ validRange s.startAddr s.endAddr
  | .rAnnounce => s.mode = modeRead ∧ s.cause = .none ∧ validRange s.startAddr s.endAddr
  | .rToken0 | .rToken1 | .rTokchk => s.mode = modeRead ∧ s.cause = .none ∧ Inside s ∧ s.idx.toNat % 32 = 0
  | .rRead | .rSend => s.mode = modeRead ∧ s.cause = .none ∧ Inside s
  | .wGrant => s.mode = modeWrite ∧ s.cause = .none ∧ Inside s ∧ s.idx.toNat % 32 = 0
  | .wRecv | .wWrite => s.mode = modeWrite ∧ s.cause = .none ∧ Inside s
  | .doneOk | .doneIdle =>
      (s.mode = modeRead ∨ s.mode = modeWrite) ∧ s.cause = .none ∧ validRange s.startAddr s.endAddr
  | .errEmit | .errIdle =>
      (s.mode = modeIdle ∨ s.mode = modeRead) ∧ s.cause ≠ .none ∧
        (s.cause = .startOob → Config.memSize ≤ s.causeVal.toNat) ∧
        (s.cause = .endOob → Config.memSize < s.causeVal.toNat)

theorem inv_of_parts {s : State} (mode : ModeOk s) (bus : BusOk s) (link : LinkOk s) (label : AtLabel s)
    (mem : memWf s.mem) : Inv s := by
  obtain ⟨legal, direction⟩ := mode
  obtain ⟨oe, we, transaction, readPhases, writePhases, serializer, clock⟩ := bus
  obtain ⟨receiver, sender, encoder⟩ := link
  unfold AtLabel at label
  constructor <;> try assumption
  all_goals
    clear legal direction oe we transaction readPhases writePhases serializer clock receiver sender encoder mem
    cases hc : s.ctl <;> simp_all [RestMode, Inside, inRead, inWrite, closing, aborting, operands, validated, transfers,
      atWindow, validRange]

theorem Inv.modeOk {s : State} (h : Inv s) : ModeOk s := ⟨h.legalMode, h.direction⟩

theorem Inv.busOk {s : State} (h : Inv s) : BusOk s :=
  ⟨h.outputEnable, h.writeEnable, h.transaction, h.readPhases, h.writePhases, h.serializer, h.shiftClock⟩

theorem Inv.linkOk {s : State} (h : Inv s) : LinkOk s := ⟨h.receiver, h.sender, h.encoder⟩

theorem Inv.atLabel {s : State} (h : Inv s) : AtLabel s := by
  obtain ⟨-, -, -, -, readMode, writeMode, closingMode, abortMode, otherMode, -, -, -, -, -, -, -, -, cause, startValue,
    endValue, opcode, range, index, window, -⟩ := h
  unfold AtLabel
  cases hc : s.ctl <;> simp_all [RestMode, Inside, inRead, inWrite, closing, aborting, operands, validated, transfers,
    atWindow, validRange]

/-! ## States between transactions with no handshake open -/

/-- No transaction runs: the enables are inactive and the shift clock is low. -/
def BusIdle (s : State) : Prop :=
  s.oeAct = false ∧ s.weAct = false ∧ s.busPhase = .idle ∧ s.serPhase = .idle ∧ s.srClk = false

/-- No byte is asked for or offered, and no frame is in progress. -/
def LinkIdle (s : State) : Prop := s.rxReady = false ∧ s.txValid = false ∧ s.encFrame = none

theorem BusOk.idle_of_phase {s : State} (h : BusOk s) (bus : s.busPhase = .idle) : BusIdle s := by
  obtain ⟨oe, we, -, -, -, serializer, clock⟩ := h
  have ser : s.serPhase = .idle := by
    by_contra hs
    exact absurd (bus.symm.trans (serializer.1 hs)) (by decide)
  refine ⟨Bool.eq_false_iff.2 fun h => ?_, Bool.eq_false_iff.2 fun h => ?_, bus, ser, Bool.eq_false_iff.2 fun h => ?_⟩
  · simpa [bus] using (oe h).2
  · simpa [bus] using (we h).2
  · simpa [ser] using clock h

theorem BusOk.phase_idle {s : State} (h : BusOk s) (hr : s.ctl ≠ .rRead) (hw : s.ctl ≠ .wWrite) :
    s.busPhase = .idle := by
  obtain ⟨-, -, transaction, -⟩ := h
  by_contra hb
  rcases transaction hb with h | h
  · exact hr h
  · exact hw h

theorem BusIdle.busOk {s : State} (h : BusIdle s) : BusOk s := by
  obtain ⟨oe, we, bus, ser, clock⟩ := h
  simp [BusOk, oe, we, bus, ser, clock]

theorem LinkIdle.linkOk {s : State} (h : LinkIdle s) : LinkOk s := by
  obtain ⟨rx, tx, enc⟩ := h
  simp [LinkOk, rx, tx, enc]

theorem inv_of_idle {s : State} (mode : ModeOk s) (bus : BusIdle s) (link : LinkIdle s) (label : AtLabel s)
    (mem : memWf s.mem) : Inv s := inv_of_parts mode bus.busOk link.linkOk label mem

/-- At a label where the CORE neither receives nor sends, no handshake is open. -/
theorem LinkOk.idle {s : State} (h : LinkOk s) (hr : receives s.ctl = false) (hs : sends s.ctl = false)
    (hf : frameAt s.ctl = none) : LinkIdle s := by
  obtain ⟨receiver, sender, encoder⟩ := h
  refine ⟨Bool.eq_false_iff.2 fun h => ?_, Bool.eq_false_iff.2 fun h => ?_, ?_⟩
  · simp [receiver h] at hr
  · simp [sender h] at hs
  · simpa [hf] using encoder

/-! ## The host-stream primitives -/

/-- A label where the CORE receives is none where it sends, or makes a transaction. -/
theorem receives_exclusive {c : Ctl} (h : receives c = true) :
    sends c = false ∧ frameAt c = none ∧ c ≠ .rRead ∧ c ≠ .wWrite := by
  cases c <;> simp_all [receives, sends, frameAt]

/-- A label where a frame is emitted is none where the CORE receives, or makes a transaction. -/
theorem frameAt_exclusive {c : Ctl} {f : FrameKind} (h : frameAt c = some f) :
    receives c = false ∧ sends c = true ∧ c ≠ .rRead ∧ c ≠ .wWrite := by
  cases c <;> simp_all [receives, sends, frameAt]

section
variable {s : State} (hi : Inv s)
include hi

theorem Inv.raise (label : receives s.ctl = true) : Inv { s with rxReady := true } :=
  inv_of_parts hi.modeOk hi.busOk ⟨fun _ => label, hi.sender, hi.encoder⟩ hi.atLabel hi.memory

theorem Inv.accept (b : Byte) (q : List Byte) : Inv (acceptByte b q s) :=
  inv_of_parts hi.modeOk hi.busOk ⟨fun h => absurd h Bool.false_ne_true, hi.sender, hi.encoder⟩ hi.atLabel hi.memory

/-- An edge of `RxByte()` keeps the invariant if the label's register is written so. -/
theorem inv_tickRx {store : Byte → State → State} (label : receives s.ctl = true)
    (h : ∀ b u, Inv u → u.ctl = s.ctl → BusIdle u → LinkIdle u → Inv (store b u)) : Inv (tickRx store s) := by
  obtain ⟨silent, frameless, hr, hw⟩ := receives_exclusive label
  have bus : BusIdle s := hi.busOk.idle_of_phase (hi.busOk.phase_idle hr hw)
  have sent : s.txValid = false := Bool.eq_false_iff.2 fun h => by simp [hi.sender h] at silent
  have frame : s.encFrame = none := by simpa [frameless] using hi.encoder
  unfold tickRx
  split
  · split
    · exact hi
    · exact h _ _ (hi.accept _ _) rfl bus ⟨rfl, sent, frame⟩
  · exact hi.raise label

theorem Inv.offer {f : FrameKind} (label : frameAt s.ctl = some f) (pos : Nat) (b : Byte) :
    Inv { s with encFrame := some f, encPos := pos, txData := b, txValid := true } :=
  inv_of_parts hi.modeOk hi.busOk ⟨hi.receiver, fun _ => (frameAt_exclusive label).2.1, .inr label.symm⟩ hi.atLabel
    hi.memory

/-- An edge of a frame keeps the invariant if what follows the frame does. -/
theorem inv_tickEmit {f : FrameKind} {next : State → State} (label : frameAt s.ctl = some f)
    (h : ∀ u, Inv u → u.ctl = s.ctl → BusIdle u → LinkIdle u → Inv (next u)) : Inv (tickEmit f next s) := by
  obtain ⟨deaf, -, hr, hw⟩ := frameAt_exclusive label
  have bus : BusIdle s := hi.busOk.idle_of_phase (hi.busOk.phase_idle hr hw)
  have ready : s.rxReady = false := Bool.eq_false_iff.2 fun h => by simp [hi.receiver h] at deaf
  cases offered : s.txValid with
  | false => rw [tickEmit_offer f next offered]; exact hi.offer label 0 _
  | true =>
    cases accepts : s.txReady with
    | false => rw [tickEmit_wait f next offered accepts]; exact hi
    | true =>
      cases hb : (frameBytes f s)[s.encPos + 1]? with
      | some b =>
        rw [tickEmit_more next offered accepts hb]
        have := hi.offer label (s.encPos + 1) b
        exact inv_of_parts this.modeOk this.busOk this.linkOk this.atLabel this.memory
      | none =>
        rw [tickEmit_last next offered accepts hb]
        have link : LinkIdle { byteTaken s with encFrame := none, encPos := 0 } := ⟨ready, rfl, rfl⟩
        exact h _ (inv_of_parts hi.modeOk hi.busOk link.linkOk hi.atLabel hi.memory) rfl bus link

end

/-! ## The loop heads -/

theorem inv_readHead {s : State} (mode : s.mode = modeRead) (direction : ModeOk s) (bus : BusIdle s) (link : LinkIdle s)
    (cause : s.cause = .none) (range : validRange s.startAddr s.endAddr) (mem : memWf s.mem) : Inv (readHead s) := by
  unfold readHead
  split
  · rename_i inside
    split
    · rename_i start
      exact inv_of_idle direction bus link ⟨mode, cause, ⟨range, inside⟩, (atWindowStart_iff _).1 start⟩ mem
    · exact inv_of_idle direction bus link ⟨mode, cause, range, inside⟩ mem
  · exact inv_of_idle direction bus link ⟨.inl mode, cause, range⟩ mem

theorem inv_writeHead {s : State} (mode : s.mode = modeWrite) (direction : ModeOk s) (bus : BusIdle s)
    (link : LinkIdle s) (cause : s.cause = .none) (range : validRange s.startAddr s.endAddr) (mem : memWf s.mem) :
    Inv (writeHead s) := by
  unfold writeHead
  split
  · rename_i inside
    split
    · rename_i start
      exact inv_of_idle direction bus link ⟨mode, cause, ⟨range, inside⟩, (atWindowStart_iff _).1 start⟩ mem
    · exact inv_of_idle direction bus link ⟨mode, cause, range, inside⟩ mem
  · exact inv_of_idle direction bus link ⟨.inr mode, cause, range⟩ mem

/-! ## The edges of a transaction -/


/-- Inside a transaction's SERIALIZE, and at its end. -/
theorem BusOk.serializing {s t : State} (h : BusOk s) (bus : s.busPhase = .serialize) (label : t.ctl = s.ctl)
    (enables : t.oeAct = s.oeAct ∧ t.weAct = s.weAct)
    (phase : t.busPhase = .serialize ∧ t.serPhase ≠ .idle ∨ t.busPhase = .settleAddr ∧ t.serPhase = .idle)
    (clock : t.srClk = true → t.serPhase = .settleRise ∨ t.serPhase = .fall) : BusOk t := by
  obtain ⟨oe, we, transaction, -⟩ := h
  have running := transaction (by simp [bus])
  simp only [bus, reduceCtorEq, or_self, and_false, imp_false] at oe we
  obtain ⟨hoe, hwe⟩ := enables
  rcases phase with ⟨hb, hp⟩ | ⟨hb, hp⟩ <;>
  · simp [BusOk, hoe, hwe, oe, we, label, running, hb, hp]
    simpa [hp] using clock

section
variable {s : State} (hi : Inv s)
include hi

/-- A settle delay keeps the invariant if what follows it does. -/
theorem inv_tickSettle {next : State → State} (h : Inv (next s)) : Inv (tickSettle next s) := by
  unfold tickSettle
  split
  · exact h
  · exact inv_of_parts hi.modeOk hi.busOk hi.linkOk hi.atLabel hi.memory

/-- Where SERIALIZE is not over the transaction's phase stays. -/
theorem inv_addressDone_tickSettle {next : State → State} (serializing : s.serPhase ≠ .idle)
    (h : Inv (addressDone (next s))) : Inv (addressDone (tickSettle next s)) := by
  unfold tickSettle
  split
  · exact h
  · rw [addressDone, if_neg serializing]
    exact inv_of_parts hi.modeOk hi.busOk hi.linkOk hi.atLabel hi.memory

/-- SERIALIZE inside a transaction: its clock is high from its rise to its fall. -/
theorem inv_tickAddress (bus : s.busPhase = .serialize) : Inv (tickAddress s) := by
  have serializing : s.serPhase ≠ .idle := hi.serializer.2 bus
  have low : s.serPhase ≠ .settleRise → s.serPhase ≠ .fall → s.srClk = false := fun h1 h2 =>
    Bool.eq_false_iff.2 fun h => (hi.shiftClock h).elim h1 h2
  have keep : ∀ t : State, ModeOk t → LinkOk t → AtLabel t → memWf t.mem → t.ctl = s.ctl →
      t.oeAct = s.oeAct ∧ t.weAct = s.weAct →
      (t.busPhase = .serialize ∧ t.serPhase ≠ .idle ∨ t.busPhase = .settleAddr ∧ t.serPhase = .idle) →
      (t.srClk = true → t.serPhase = .settleRise ∨ t.serPhase = .fall) → Inv t :=
    fun t mode link label mem hc enables phase clock =>
      inv_of_parts mode (hi.busOk.serializing bus hc enables phase clock) link label mem
  rw [tickAddress_eq]
  cases hp : s.serPhase <;> simp only [tickSerialize, hp]
  case idle => exact absurd hp serializing
  case data =>
    rw [addressDone, if_neg (by simp)]
    exact keep _ hi.modeOk hi.linkOk hi.atLabel hi.memory rfl ⟨rfl, rfl⟩ (.inl ⟨bus, by simp⟩) (by simp [low, hp])
  case rise =>
    rw [addressDone, if_neg (by simp)]
    exact keep _ hi.modeOk hi.linkOk hi.atLabel hi.memory rfl ⟨rfl, rfl⟩ (.inl ⟨bus, by simp⟩) (by simp)
  case fall =>
    rw [addressDone, if_neg (by simp)]
    exact keep _ hi.modeOk hi.linkOk hi.atLabel hi.memory rfl ⟨rfl, rfl⟩ (.inl ⟨bus, by simp⟩) (by simp)
  case settleData =>
    refine inv_addressDone_tickSettle hi serializing ?_
    rw [addressDone, if_neg (by simp)]
    exact keep _ hi.modeOk hi.linkOk hi.atLabel hi.memory rfl ⟨rfl, rfl⟩ (.inl ⟨bus, by simp⟩) (by simp [low, hp])
  case settleRise =>
    refine inv_addressDone_tickSettle hi serializing ?_
    rw [addressDone, if_neg (by simp)]
    exact keep _ hi.modeOk hi.linkOk hi.atLabel hi.memory rfl ⟨rfl, rfl⟩ (.inl ⟨bus, by simp⟩) (by simp)
  case settleFall =>
    refine inv_addressDone_tickSettle hi serializing ?_
    unfold nextBit
    split
    · rw [addressDone, if_pos rfl]
      exact keep _ hi.modeOk hi.linkOk hi.atLabel hi.memory rfl ⟨rfl, rfl⟩ (.inr ⟨rfl, rfl⟩) (by simp [low, hp])
    · rw [addressDone, if_neg (by simp)]
      exact keep _ hi.modeOk hi.linkOk hi.atLabel hi.memory rfl ⟨rfl, rfl⟩ (.inl ⟨bus, by simp⟩) (by simp [low, hp])

/-- Outside SERIALIZE its clock is low. -/
theorem between_serialize (hb : s.busPhase ≠ .serialize) : s.serPhase = .idle ∧ s.srClk = false := by
  have ser : s.serPhase = .idle := by
    by_contra hs
    exact hb (hi.serializer.1 hs)
  exact ⟨ser, Bool.eq_false_iff.2 fun h => by simpa [ser] using hi.shiftClock h⟩

/-- READ_BYTE keeps the invariant and does not fault (41_bus_mode_controller.md R156). -/
theorem inv_tickRead (hc : s.ctl = .rRead) : Goes Inv (tickRead s) := by
  have label := hi.atLabel
  simp only [AtLabel, hc] at label
  obtain ⟨mode, cause, inside⟩ := label
  have we : s.weAct = false := weAct_inactive_of_inv hi (by simp [hc])
  have oe := hi.outputEnable
  have phase : ∀ t : State, ModeOk t → LinkOk t → AtLabel t → memWf t.mem → BusOk t → Inv t :=
    fun t mode link label mem bus => inv_of_parts mode bus link label mem
  by_cases serializing : s.busPhase = .serialize
  · simp only [tickRead, serializing]
    exact inv_tickAddress hi serializing
  obtain ⟨ser, clock⟩ := between_serialize hi serializing
  cases hb : s.busPhase <;> simp only [tickRead, hb]
  case idle =>
    rw [if_pos mode]
    refine phase (startSerialize s) hi.modeOk hi.linkOk hi.atLabel hi.memory ?_
    have oe : s.oeAct = false := by simpa [hb] using oe
    simp [BusOk, startSerialize, hc, clock, oe, we]
  case serialize => exact absurd hb serializing
  case settleAddr =>
    refine inv_tickSettle hi (phase _ hi.modeOk hi.linkOk hi.atLabel hi.memory ?_)
    have oe : s.oeAct = false := by simpa [hb] using oe
    simp [BusOk, hc, ser, clock, oe, we]
  case assertEnable =>
    refine phase _ hi.modeOk hi.linkOk hi.atLabel hi.memory ?_
    simp [BusOk, hc, ser, clock, we]
  case settleEnable =>
    refine inv_tickSettle hi (phase _ hi.modeOk hi.linkOk hi.atLabel hi.memory ?_)
    simp [BusOk, hc, ser, clock, we]
  case sample =>
    refine phase _ hi.modeOk hi.linkOk hi.atLabel hi.memory ?_
    simp [BusOk, hc, ser, clock, we]
  case deassert =>
    refine inv_of_idle hi.modeOk ⟨rfl, we, rfl, ser, clock⟩ ?_ ⟨mode, cause, inside⟩ hi.memory
    exact hi.linkOk.idle (by simp [hc, receives]) (by simp [hc, sends]) (by simp [hc, frameAt])
  case drive => exact (hi.readPhases hc).1 hb
  case settleHold => exact (hi.readPhases hc).2 hb

/-- WRITE_BYTE keeps the invariant and does not fault (41_bus_mode_controller.md R158). -/
theorem inv_tickWrite (hc : s.ctl = .wWrite) : Goes Inv (tickWrite s) := by
  have label := hi.atLabel
  simp only [AtLabel, hc] at label
  obtain ⟨mode, cause, range, -⟩ := label
  have oe : s.oeAct = false := oeAct_inactive_of_inv hi (by simp [hc])
  have we := hi.writeEnable
  have phase : ∀ t : State, ModeOk t → LinkOk t → AtLabel t → memWf t.mem → BusOk t → Inv t :=
    fun t mode link label mem bus => inv_of_parts mode bus link label mem
  by_cases serializing : s.busPhase = .serialize
  · simp only [tickWrite, serializing]
    exact inv_tickAddress hi serializing
  obtain ⟨ser, clock⟩ := between_serialize hi serializing
  cases hb : s.busPhase <;> simp only [tickWrite, hb]
  case idle =>
    rw [if_pos mode]
    refine phase (startSerialize s) hi.modeOk hi.linkOk hi.atLabel hi.memory ?_
    have we : s.weAct = false := by simpa [hb] using we
    simp [BusOk, startSerialize, hc, clock, oe, we]
  case serialize => exact absurd hb serializing
  case settleAddr =>
    refine inv_tickSettle hi (phase _ hi.modeOk hi.linkOk hi.atLabel hi.memory ?_)
    have we : s.weAct = false := by simpa [hb] using we
    simp [BusOk, hc, ser, clock, oe, we]
  case drive =>
    refine phase _ hi.modeOk hi.linkOk hi.atLabel hi.memory ?_
    have we : s.weAct = false := by simpa [hb] using we
    simp [BusOk, hc, ser, clock, oe, we]
  case assertEnable =>
    refine phase _ hi.modeOk hi.linkOk hi.atLabel (memWf_setWeAct true hi.memory) ?_
    simp [BusOk, hc, ser, clock, oe]
  case settleEnable =>
    refine inv_tickSettle hi (phase _ hi.modeOk hi.linkOk hi.atLabel hi.memory ?_)
    simp [BusOk, hc, ser, clock, oe]
  case deassert =>
    refine phase _ hi.modeOk hi.linkOk hi.atLabel (memWf_setWeAct false hi.memory) ?_
    simp [BusOk, hc, ser, clock, oe]
  case settleHold =>
    refine inv_tickSettle hi (inv_writeHead mode hi.modeOk ?_ ?_ cause range hi.memory)
    · have we : s.weAct = false := by simpa [hb] using we
      exact ⟨oe, we, rfl, ser, clock⟩
    · exact hi.linkOk.idle (by simp [hc, receives]) (by simp [hc, sends]) (by simp [hc, frameAt])
  case sample => exact hi.writePhases hc hb

end

/-! ## The other edges -/

theorem inv_beginAbort {s : State} {c : Cause} {v : Option Addr} (mode : s.mode = modeIdle ∨ s.mode = modeRead)
    (direction : ModeOk s) (bus : BusIdle s) (link : LinkIdle s) (mem : memWf s.mem) (hc : c ≠ .none)
    (start : c = .startOob → Config.memSize ≤ (v.getD s.causeVal).toNat)
    (stop : c = .endOob → Config.memSize < (v.getD s.causeVal).toNat) : Inv (beginAbort c v s) :=
  inv_of_idle direction bus link ⟨mode, hc, start, stop⟩ mem

theorem RestMode.idle_or_read {s : State} (h : RestMode s) : s.mode = modeIdle ∨ s.mode = modeRead :=
  h.imp_right And.left

/-- A mode entry between transactions. -/
theorem enterMode_ok (m : BitVec 2) (d : Bool) {s : State} (legal : m ≠ modeIllegal)
    (direction : d = true ↔ m = modeWrite) (bus : BusIdle s) (mem : memWf s.mem) :
    ModeOk (enterMode m d s) ∧ BusIdle (enterMode m d s) ∧ memWf (enterMode m d s).mem := by
  obtain ⟨-, -, phase, ser, clock⟩ := bus
  exact ⟨⟨legal, direction⟩, ⟨rfl, rfl, phase, ser, clock⟩, memWf_setWeAct false mem⟩

/-- The dispatch on the instruction byte. -/
theorem inv_dispatchOp {s : State} (mode : RestMode s) (direction : ModeOk s) (bus : BusIdle s) (link : LinkIdle s)
    (cause : s.cause = .none) (mem : memWf s.mem) : Inv (dispatchOp s) := by
  unfold dispatchOp
  split
  · exact inv_of_idle direction bus link ⟨mode, cause⟩ mem
  · split
    · exact inv_of_idle direction bus link ⟨mode, cause, .inl ‹_›⟩ mem
    · split
      · exact inv_of_idle direction bus link ⟨mode, cause, .inr ‹_›⟩ mem
      · exact inv_beginAbort mode.idle_or_read direction bus link mem (by simp)
          (fun h => nomatch h) fun h => nomatch h

/-- CHECK: the operation byte is one of the two, so the edge does not fault. -/
theorem inv_tickCheck {s : State} (mode : RestMode s) (direction : ModeOk s) (bus : BusIdle s) (link : LinkIdle s)
    (cause : s.cause = .none) (op : s.op = opRead ∨ s.op = opWrite) (mem : memWf s.mem) : Goes Inv (tickCheck s) := by
  cases hv : validate s.startAddr s.endAddr with
  | some r =>
    obtain ⟨c, v⟩ := r
    rw [tickCheck_of_invalid hv]
    rcases validate_eq_some hv with ⟨rfl, rfl, start⟩ | ⟨rfl, rfl, -, stop⟩ | ⟨rfl, rfl, -⟩
    · exact inv_beginAbort mode.idle_or_read direction bus link mem (by simp) (fun _ => start) (fun h => nomatch h)
    · exact inv_beginAbort mode.idle_or_read direction bus link mem (by simp) (fun h => nomatch h) (fun _ => stop)
    · exact inv_beginAbort mode.idle_or_read direction bus link mem (by simp)
          (fun h => nomatch h) fun h => nomatch h
  | none =>
    have range := (validate_eq_none _ _).1 hv
    rw [tickCheck_of_valid hv op]
    rcases op with hop | hop
    · rw [if_pos (show s.op = 0x52 from hop)]
      exact inv_of_idle direction bus link ⟨mode, cause, range⟩ mem
    · rw [if_neg (by rw [hop]; decide)]
      exact inv_of_idle direction bus link ⟨mode, cause, range⟩ mem

/-- The label after an error frame: with `ABORT_TO_IDLE` false the scan starts again in the mode that the abort left. -/
theorem inv_afterErrorFrame {s : State} (hi : Inv s) (hc : s.ctl = .errEmit) (bus : BusIdle s) (link : LinkIdle s) :
    Inv (afterErrorFrame s) := by
  have label := hi.atLabel
  simp only [AtLabel, hc] at label
  obtain ⟨mode, cause, start, stop⟩ := label
  unfold afterErrorFrame
  split
  · exact inv_of_idle hi.modeOk bus link ⟨mode, cause, start, stop⟩ hi.memory
  · rename_i stays
    exact inv_of_idle hi.modeOk bus link ⟨mode.imp_right fun h => ⟨h, Bool.eq_false_iff.2 stays⟩, rfl⟩ hi.memory

/-- R_SEND: the data byte, then the next index or the closing frame. -/
theorem inv_tickSend {s : State} (hi : Inv s) (hc : s.ctl = .rSend) : Inv (tickTx s.data readNext s) := by
  have label := hi.atLabel
  simp only [AtLabel, hc] at label
  obtain ⟨mode, cause, range, -⟩ := label
  have bus := hi.busOk.idle_of_phase (hi.busOk.phase_idle (by simp [hc]) (by simp [hc]))
  have deaf : s.rxReady = false := Bool.eq_false_iff.2 fun h => by simpa [hc, receives] using hi.receiver h
  have frame : s.encFrame = none := by simpa [hc, frameAt] using hi.encoder
  cases offered : s.txValid with
  | false =>
    have edge : tickTx s.data readNext s = offerByte s.data s := by simp [tickTx, offered]
    rw [edge]
    exact inv_of_parts hi.modeOk hi.busOk ⟨hi.receiver, fun _ => by simp [hc, sends], hi.encoder⟩ hi.atLabel hi.memory
  | true =>
    cases accepts : s.txReady with
    | false => rw [tickTx_wait s.data readNext offered accepts]; exact hi
    | true =>
      have edge : tickTx s.data readNext s = readNext (byteTaken s) := by simp [tickTx, offered, accepts]
      have head : Inv (readHead { byteTaken s with idx := s.idx + 1 }) :=
        inv_readHead mode hi.modeOk bus ⟨deaf, rfl, frame⟩ cause range hi.memory
      rw [edge, readNext_eq, afterData]
      split
      · rename_i closes
        exact head.offer (f := .ok) (congrArg frameAt closes) 0 _
      · exact head

/-- From a state with the invariant every clock edge completes, in a state with the invariant. -/
theorem inv_tick {s : State} (hi : Inv s) : Goes Inv (tick s) := by
  have label := hi.atLabel
  have between : receives s.ctl = false ∧ sends s.ctl = false ∧ frameAt s.ctl = none ∧ s.ctl ≠ .rRead ∧
      s.ctl ≠ .wWrite → BusIdle s ∧ LinkIdle s := fun ⟨deaf, mute, frameless, hr, hw⟩ =>
    ⟨hi.busOk.idle_of_phase (hi.busOk.phase_idle hr hw), hi.linkOk.idle deaf mute frameless⟩
  have receiving : ∀ {c : Ctl} {u : State}, s.ctl = c → Inv u → u.ctl = s.ctl → AtLabel { u with ctl := c } :=
    fun h hu hcu => by rw [← h, ← hcu]; exact hu.atLabel
  cases hc : s.ctl <;> simp only [AtLabel, hc] at label <;> simp only [tick, hc]
  case sync k =>
    refine inv_tickRx hi (by simp [hc, receives]) fun b u hu hcu bus link => ?_
    obtain ⟨mode, cause⟩ := receiving hc hu hcu
    rcases syncNext_label u.cfg.syncRetest k b with ⟨l, hl⟩ | hl <;> simp only [hl]
    · exact inv_of_idle hu.modeOk bus link ⟨mode, cause⟩ hu.memory
    · exact inv_of_idle hu.modeOk bus link ⟨mode, cause⟩ hu.memory
  case instr =>
    refine inv_tickRx hi (by simp [hc, receives]) fun b u hu hcu bus link => ?_
    obtain ⟨mode, cause⟩ := receiving hc hu hcu
    exact inv_dispatchOp (s := { u with op := b }) mode hu.modeOk bus link cause hu.memory
  case addr k =>
    refine inv_tickRx hi (by simp [hc, receives]) fun b u hu hcu bus link => ?_
    obtain ⟨mode, cause, op⟩ := receiving hc hu hcu
    fin_cases k <;> exact inv_of_idle hu.modeOk bus link ⟨mode, cause, op⟩ hu.memory
  case check =>
    obtain ⟨mode, cause, op⟩ := label
    obtain ⟨bus, link⟩ := between (by simp [hc, receives, sends, frameAt])
    exact inv_tickCheck mode hi.modeOk bus link cause op hi.memory
  case sOk =>
    refine inv_tickEmit hi (by simp [hc, frameAt]) fun u hu hcu bus link => ?_
    have at_u := receiving hc hu hcu
    exact inv_of_idle hu.modeOk bus link at_u hu.memory
  case rEnter =>
    obtain ⟨-, cause, range⟩ := label
    obtain ⟨bus, link⟩ := between (by simp [hc, receives, sends, frameAt])
    obtain ⟨mode, idle, mem⟩ := enterMode_ok modeRead false (by decide) (by decide) bus hi.memory
    exact inv_of_idle mode idle link ⟨rfl, cause, range⟩ mem
  case rAnnounce =>
    refine inv_tickEmit hi (by simp [hc, frameAt]) fun u hu hcu bus link => ?_
    obtain ⟨mode, cause, range⟩ := receiving hc hu hcu
    exact inv_readHead (s := { u with idx := 0 }) mode hu.modeOk bus link cause range hu.memory
  case rToken0 =>
    refine inv_tickRx hi (by simp [hc, receives]) fun b u hu hcu bus link => ?_
    exact inv_of_idle hu.modeOk bus link (receiving hc hu hcu) hu.memory
  case rToken1 =>
    refine inv_tickRx hi (by simp [hc, receives]) fun b u hu hcu bus link => ?_
    exact inv_of_idle hu.modeOk bus link (receiving hc hu hcu) hu.memory
  case rTokchk =>
    obtain ⟨mode, cause, inside, -⟩ := label
    obtain ⟨bus, link⟩ := between (by simp [hc, receives, sends, frameAt])
    unfold tickToken
    split
    · exact inv_of_idle hi.modeOk bus link ⟨mode, cause, inside⟩ hi.memory
    · exact inv_beginAbort (.inr mode) hi.modeOk bus link hi.memory (by simp)
          (fun h => nomatch h) fun h => nomatch h
  case rRead => exact inv_tickRead hi hc
  case rSend => exact inv_tickSend hi hc
  case wEnter =>
    obtain ⟨-, cause, range⟩ := label
    obtain ⟨bus, link⟩ := between (by simp [hc, receives, sends, frameAt])
    obtain ⟨mode, idle, mem⟩ := enterMode_ok modeWrite true (by decide) (by decide) bus hi.memory
    exact inv_writeHead (s := { enterWrite s with idx := 0 }) rfl mode idle link cause range mem
  case wGrant =>
    refine inv_tickEmit hi (by simp [hc, frameAt]) fun u hu hcu bus link => ?_
    obtain ⟨mode, cause, inside, -⟩ := receiving hc hu hcu
    exact inv_of_idle hu.modeOk bus link ⟨mode, cause, inside⟩ hu.memory
  case wRecv =>
    refine inv_tickRx hi (by simp [hc, receives]) fun b u hu hcu bus link => ?_
    exact inv_of_idle hu.modeOk bus link (receiving hc hu hcu) hu.memory
  case wWrite => exact inv_tickWrite hi hc
  case doneOk =>
    refine inv_tickEmit hi (by simp [hc, frameAt]) fun u hu hcu bus link => ?_
    have at_u := receiving hc hu hcu
    exact inv_of_idle hu.modeOk bus link at_u hu.memory
  case doneIdle =>
    obtain ⟨-, cause, -⟩ := label
    obtain ⟨bus, link⟩ := between (by simp [hc, receives, sends, frameAt])
    obtain ⟨mode, idle, mem⟩ := enterMode_ok modeIdle false (by decide) (by decide) bus hi.memory
    exact inv_of_idle mode idle link ⟨.inl rfl, cause⟩ mem
  case errEmit =>
    exact inv_tickEmit hi (by simp [hc, frameAt]) fun u hu hcu bus link =>
      inv_afterErrorFrame hu (hcu.trans hc) bus link
  case errIdle =>
    obtain ⟨bus, link⟩ := between (by simp [hc, receives, sends, frameAt])
    obtain ⟨mode, idle, mem⟩ := enterMode_ok modeIdle false (by decide) (by decide) bus hi.memory
    exact inv_of_idle mode idle link ⟨.inl rfl, rfl⟩ mem

/-! ## Steps -/

theorem inv_ticks {k : Nat} {s t : State} (hi : Inv s) (h : ticks k s = .go t) : Inv t := by
  induction k generalizing s with
  | zero => cases h; exact hi
  | succ k ih =>
    obtain ⟨u, edge, rest⟩ := ticks_succ_eq_go h
    have hu := inv_tick hi
    rw [edge] at hu
    exact ih hu rest

/-- At SYNC0 between commands. -/
theorem Inv.at_sync {s : State} (hi : Inv s) (hc : s.ctl = .sync 0) : BusIdle s ∧ s.txValid = false ∧ RestMode s ∧
    s.cause = .none := by
  have label := hi.atLabel
  simp only [AtLabel, hc] at label
  exact ⟨hi.busOk.idle_of_phase (hi.busOk.phase_idle (by simp [hc]) (by simp [hc])),
    Bool.eq_false_iff.2 fun h => by simpa [hc, sends] using hi.sender h, label⟩

/-- Settles O43: after reset everything is at rest. -/
theorem invariantHoldsAtReset : Obligations.InvariantHoldsAtReset := by
  refine inv_of_idle ⟨?_, ?_⟩ ⟨rfl, rfl, rfl, rfl, rfl⟩ ⟨rfl, rfl, rfl⟩ ⟨.inl rfl, rfl⟩ memWf_reset
  · decide
  · decide

/-- A reset edge leaves the invariant, whatever it cuts off. -/
theorem inv_resetEdge {s : State} (mem : memWf s.mem) : Inv (resetEdge s) :=
  inv_of_idle invariantHoldsAtReset.modeOk ⟨rfl, rfl, rfl, rfl, rfl⟩ ⟨rfl, rfl, rfl⟩ ⟨.inl rfl, rfl⟩
    (memWf_resetEdge mem)

/-- Settles O44: a reset edge starts anew, an edge keeps the invariant, and a whole command is a number of edges
(`clockedReachesCommandEnd`). -/
theorem stepKeepsInvariant : Obligations.StepKeepsInvariant := by
  intro s t hi h
  rcases step_eq_next h with ⟨-, rfl⟩ | ⟨-, i, rest, hc, hd, he⟩ | ⟨-, -, ht⟩
  · exact inv_resetEdge hi.memory
  · obtain ⟨⟨-, -, bus, -⟩, sent, -⟩ := hi.at_sync hc
    obtain ⟨k, u, way, answered⟩ := clockedReachesCommandEnd s i rest hc sent bus hd
    obtain rfl := Host.Outcome.next.inj (he.symm.trans answered)
    exact inv_ticks hi way
  · have hu := inv_tick hi
    rwa [ht] at hu

/-- Settles O45: an edge completes by `inv_tick`, and a command answers by `clockedReachesCommandEnd`. -/
theorem invariantStepNeverFaults : Obligations.InvariantStepNeverFaults := by
  intro s hi
  cases reset : s.rst with
  | true => exact ⟨_, step_of_rst reset⟩
  | false =>
    have hr : running s := ⟨reset, hi.legalMode⟩
    cases hf : fetch s with
    | some r =>
      obtain ⟨i, u⟩ := r
      obtain ⟨hc, ⟨rest, hd⟩, rfl⟩ := fetch_eq_some hf
      obtain ⟨⟨-, -, bus, -⟩, sent, -⟩ := hi.at_sync hc
      obtain ⟨-, t, -, answered⟩ := clockedReachesCommandEnd s i rest hc sent bus hd
      exact ⟨t, (step_eq_exec hr hf).trans answered⟩
    | none =>
      have completes := inv_tick hi
      cases ht : tick s with
      | go t => exact ⟨t, by rw [step_eq_tick hr hf, ht, outcome_go]⟩
      | stop t => rw [ht] at completes; exact completes.elim
      | fault f => rw [ht] at completes; exact completes.elim

/-! ## What the invariant says -/

/-- Settles O46: at SYNC0 no transaction runs, and the data lines are driven in WRITE only. -/
theorem invariantGivesQuietPins : Obligations.InvariantGivesQuietPins := by
  intro s hi hc
  obtain ⟨⟨oe, we, bus, -, clock⟩, sent, mode, cause⟩ := hi.at_sync hc
  have released : s.dOe = false := Bool.eq_false_iff.2 fun h => by
    have write := hi.direction.1 h
    rcases mode with idle | ⟨read, -⟩
    · exact absurd (idle.symm.trans write) (by decide)
    · exact absurd (read.symm.trans write) (by decide)
  exact ⟨⟨oe, we, released, clock⟩, sent, bus, cause, mode⟩

/-- What a run's build, host and reset pin cannot break. -/
theorem inv_of_reachable {builds : Config.Params → Prop} {s : State} (h : ReachableWith builds s) : Inv s := by
  induction h with
  | boot cfg mem chain q ready draws _ hm =>
    exact inv_of_idle invariantHoldsAtReset.modeOk ⟨rfl, rfl, rfl, rfl, rfl⟩ ⟨rfl, rfl, rfl⟩ ⟨.inl rfl, rfl⟩ hm
  | environment q ready rst _ ih => exact inv_of_parts ih.modeOk ih.busOk ih.linkOk ih.atLabel ih.memory
  | step _ hs ih => exact stepKeepsInvariant _ _ ih hs

/-- Settles O47: the enables belong to the two transaction labels, which have their modes. -/
theorem reachableBusSafety : Obligations.ReachableBusSafety := by
  intro s h
  have hi := inv_of_reachable h
  have read : s.oeAct = true → s.mode = modeRead := fun h => hi.readMode (by rw [(hi.outputEnable h).1]; rfl)
  have write : s.weAct = true → s.mode = modeWrite := fun h => hi.writeMode (by rw [(hi.writeEnable h).1]; rfl)
  refine ⟨fun ⟨oe, we⟩ => ?_, fun oe => ⟨Bool.eq_false_iff.2 fun d => ?_, read oe⟩,
    fun we => ⟨hi.direction.2 (write we), write we⟩, hi.direction,
    fun hr hw => ⟨oeAct_inactive_of_inv hi hr, weAct_inactive_of_inv hi hw⟩, hi.legalMode⟩
  · exact absurd ((read oe).symm.trans (write we)) (by decide)
  · exact absurd ((read oe).symm.trans (hi.direction.1 d)) (by decide)

/-- Settles O48: the index is below the length of a valid range, so the sum does not wrap. -/
theorem transferAddressInRange : Obligations.TransferAddressInRange := by
  intro s hi ht
  have valid : validated s.ctl = true := by
    cases hc : s.ctl <;> simp_all [transfers, validated, inRead, inWrite]
  obtain ⟨below, inside⟩ := hi.range valid
  have index := hi.index ht
  unfold rangeLen at index
  unfold Config.memSize at inside
  have address : (byteAddr s).toNat = s.startAddr.toNat + s.idx.toNat := by
    rw [byteAddr, BitVec.toNat_add, BitVec.toNat_setWidth]
    omega
  exact ⟨address, by omega, inside, by omega⟩

/-- Settles O51: the build's messages hold no `0x00` and name the bound and its value, and an abort's cause reports a
value that it can have. -/
theorem reachableErrorFrames : Obligations.ReachableErrorFrames := by
  intro s h hc m
  have hi := inv_of_reachable h
  have same : ∀ s t, step s = .next t → t.cfg = s.cfg := fun s t hs => by
    obtain ⟨_, -, -, build, -⟩ := stepAccountsForEveryByte s t hs
    exact build
  obtain ⟨⟨printable, startOob, endOob, unknown, -⟩, -⟩ := h.build same
  have raised : s.cause ≠ .none := hi.causeSet.2 (by rw [hc]; rfl)
  have reported : reports s.cause s.causeVal := by
    have start := hi.startValue
    have stop := hi.endValue
    cases hcause : s.cause <;> simp_all [reports]
  obtain ⟨nonempty, text⟩ := printable _ _ reported
  have free : 0x00 ∉ m := fun hz => by
    have := text _ hz
    simp at this
  obtain ⟨-, -, frame, terminated⟩ := errorFrameTermination s
  obtain ⟨count, last, -⟩ := terminated free
  refine ⟨frame, nonempty, count, last, fun cause => ?_, fun cause => ?_, fun cause => ?_⟩
  · have value := hi.startValue cause
    obtain ⟨name, digits⟩ := startOob s.causeVal value
    exact ⟨by simpa only [m, cause] using name, by simpa only [m, cause] using digits, value⟩
  · have value := hi.endValue cause
    obtain ⟨name, digits⟩ := endOob s.causeVal value
    exact ⟨by simpa only [m, cause] using name, by simpa only [m, cause] using digits, value⟩
  · simpa only [m, cause, message_unknownCmd] using unknown

end Sys2Proof.Safety
end

section
/-! PROOFS. Read: its completion and its waits (43_commands.md R216, R217; 44_flow_control.md R242). -/

namespace Sys2Proof.Machine

open Sys2Proof.Safety

/-! ## The end of a transfer -/

/-- DONE_OK and DONE_IDLE with the sink ready and the enables inactive. -/
theorem finishTransfer_eq {s : State} (ready : s.txReady = true) (oe : s.oeAct = false) (we : s.weAct = false) :
    finishTransfer s = .go (transferDone s) := by
  rw [finishTransfer, emit_ok_ready (s := { s with ctl := .doneOk }) ready, go_andThen, enterIdle,
    enterMode_of_inactive modeIdle false (by exact oe) (by exact we)]
  simp [transferDone, okBytes]

/-! ## Completion -/

theorem inside_of_validRange {a b : Addr} (range : validRange a b) :
    a.toNat + (b.toNat - a.toNat) ≤ Config.memSize := by
  obtain ⟨below, inside⟩ := range
  omega

/-- Settles O18: the indices with their tokens (`readElements_readAt`), then the closing frame. -/
theorem readCompletes : Obligations.ReadCompletes := by
  intro s a b rest ready quiet range host
  let n := b.toNat - a.toNat
  let u := readStarted a b s
  have started : ReadReady a u := readReady_readStarted a b ready quiet
  have all := readElements_readAt n .rAnnounce rest started (inside_of_validRange range)
  rw [← host] at all
  let v := readAt a n (if n = 0 then .rAnnounce else .rSend) rest u
  obtain ⟨oe, we, -, -⟩ := pinsQuiet_readProgress a n started.quiet
  have closed : finishTransfer v = .go (transferDone v) :=
    finishTransfer_eq ((readProgress_txReady a n u).trans started.ready) oe we
  rw [exec_read_of_valid ready quiet range]
  refine (congrArg (fun x : Flow => (x.andThen finishTransfer).outcome) all).trans ?_
  rw [go_andThen, closed]
  rfl

/-! ## The link of a trace -/

@[simp] theorem linkEvents_append (t u : List Event) : linkEvents (t ++ u) = linkEvents t ++ linkEvents u :=
  List.filter_append ..

@[simp] theorem linkEvents_pinEvent (changed : Bool) (p : PinChange) : linkEvents (pinEvent changed p) = [] := by
  cases changed <;> rfl

@[simp] theorem linkEvents_map_tx (bs : List Byte) : linkEvents (bs.map Event.tx) = bs.map Event.tx := by
  simp [linkEvents]

@[simp] theorem linkEvents_map_rx (bs : List Byte) : linkEvents (bs.map Event.rx) = bs.map Event.rx := by
  simp [linkEvents]

/-- What was sent and received is on the link. -/
theorem sentBytes_linkEvents (t : List Event) : sentBytes (linkEvents t) = sentBytes t := by
  unfold sentBytes linkEvents
  rw [List.filterMap_filter]
  congr 1
  funext e
  cases e <;> rfl

theorem receivedBytes_linkEvents (t : List Event) : receivedBytes (linkEvents t) = receivedBytes t := by
  unfold receivedBytes linkEvents
  rw [List.filterMap_filter]
  congr 1
  funext e
  cases e <;> rfl

@[simp] theorem linkEvents_serializeEvents (d : Bool) (a : Addr) : linkEvents (serializeEvents d a) = [] := by
  have from_bit : ∀ k d, linkEvents (serializeEventsFrom a k d) = [] := fun k => by
    induction k with
    | zero => intro d; rfl
    | succ k ih => intro d; simp only [serializeEventsFrom, linkEvents_append, linkEvents_pinEvent, ih]; rfl
  exact from_bit 24 d

@[simp] theorem linkEvents_readByteEvents (d : Bool) (a : Addr) (v : Byte) :
    linkEvents (readByteEvents d a v) = [] := by
  rw [readByteEvents, linkEvents_append, linkEvents_serializeEvents]
  rfl

theorem readPayloadLink_succ (v : Nat → Byte) (n : Nat) :
    readPayloadLink v (n + 1) = readPayloadLink v n ++
      ((if n % 32 = 0 then coBytes.map Event.rx else []) ++ [Event.tx (v n)]) := by
  simp [readPayloadLink, List.range_succ]

/-- The link of a Read's indices: the tokens and the bytes. -/
theorem linkEvents_readPayloadTrace (d : Bool) (a : Addr) (v : Nat → Byte) (n : Nat) :
    linkEvents (readPayloadTrace d a v n) = readPayloadLink v n := by
  induction n with
  | zero => rfl
  | succ n ih =>
    rw [readPayloadTrace_succ, linkEvents_append, ih, readPayloadLink_succ]
    by_cases start : n % 32 = 0 <;> simp [start] <;> rfl

theorem sentBytes_map_tx (bs : List Byte) : sentBytes (bs.map Event.tx) = bs := by
  simp [sentBytes, List.filterMap_map]

theorem sentBytes_map_rx (bs : List Byte) : sentBytes (bs.map Event.rx) = [] := by
  simp [sentBytes, List.filterMap_map]

theorem receivedBytes_map_tx (bs : List Byte) : receivedBytes (bs.map Event.tx) = [] := by
  simp [receivedBytes, List.filterMap_map]

/-- A Read sends its bytes. -/
theorem sentBytes_readPayloadLink (v : Nat → Byte) (n : Nat) :
    sentBytes (readPayloadLink v n) = (List.range n).map v := by
  induction n with
  | zero => rfl
  | succ n ih =>
    rw [readPayloadLink_succ, sentBytes_append, ih, List.range_succ, List.map_append]
    by_cases start : n % 32 = 0 <;> simp [start, sentBytes_map_rx] <;> rfl

/-- A Read receives its tokens. -/
theorem receivedBytes_readPayloadLink (v : Nat → Byte) (n : Nat) :
    receivedBytes (readPayloadLink v n) = tokens (windowCount n) := by
  induction n with
  | zero => rfl
  | succ n ih =>
    rw [readPayloadLink_succ, receivedBytes_append, ih, tokens_windowCount_succ]
    by_cases start : n % 32 = 0 <;> simp [start, receivedBytes_map_rx] <;> rfl

@[simp] theorem length_tokens (w : Nat) : (tokens w).length = 2 * w := by
  induction w with
  | zero => rfl
  | succ w ih => simp only [tokens, coBytes, List.length_append, List.length_cons, List.length_nil, ih]; omega

/-- The trace of a completed Read. -/
theorem trace_readCompleted {s : State} (a b : Addr) (quiet : pinsQuiet s) :
    (transferDone (readProgress a (b.toNat - a.toNat) (readStarted a b s))).trace =
      s.trace ++ coBytes.map Event.tx ++
        readPayloadTrace s.srData a (sampledAt a (readStarted a b s)) (b.toNat - a.toNat) ++ okBytes.map Event.tx := by
  obtain ⟨-, -, released, -⟩ := quiet
  simp [transferDone, readStarted, released, pinEvent]

/-- Settles O19: the trace of the completed Read, its link, and the bytes counted on the link. -/
theorem readLinkStream : Obligations.ReadLinkStream := by
  intro s a b rest ready quiet range host
  let t : State := { transferDone (readProgress a (b.toNat - a.toNat) (readStarted a b s)) with hostRx := rest }
  let d := sampledAt a (readStarted a b s)
  have trace : t.trace = s.trace ++ coBytes.map Event.tx ++ readPayloadTrace s.srData a d (b.toNat - a.toNat) ++
      okBytes.map Event.tx := trace_readCompleted a b quiet
  have link : linkEvents t.trace = linkEvents s.trace ++ coBytes.map Event.tx ++
      readPayloadLink d (b.toNat - a.toNat) ++ okBytes.map Event.tx := by
    simp only [trace, linkEvents_append, linkEvents_map_tx, linkEvents_readPayloadTrace]
  refine ⟨t, d, readCompletes s a b rest ready quiet range host, rfl, rfl, rfl,
    readProgress_mem a _ (readStarted a b s), trace, link, ?_, ?_⟩
  · rw [← sentBytes_linkEvents, link]
    simp only [sentBytes_append, sentBytes_linkEvents, sentBytes_map_tx, sentBytes_readPayloadLink,
      List.length_append, List.length_map, List.length_range]
    simp only [coBytes, okBytes, List.length_cons, List.length_nil]
    omega
  · rw [← receivedBytes_linkEvents, link]
    simp [receivedBytes_linkEvents, receivedBytes_map_tx, receivedBytes_readPayloadLink]

/-! ## Waits -/

/-- The token of window `w` is next. -/
def atToken (a : Addr) (w : Nat) (q : List Byte) (s : State) : State :=
  readAt a (32 * w) (if 32 * w = 0 then .rAnnounce else .rSend) q s

/-- After the tokens and the indices of `w` windows a Read comes to the token of window `w`. -/
theorem exec_read_at_token {s : State} {a b : Addr} {w : Nat} {q : List Byte} (ready : s.txReady = true)
    (quiet : pinsQuiet s) (range : validRange a b) (window : w < windowCount (b.toNat - a.toNat))
    (host : s.hostRx = tokens w ++ q) :
    exec (.read a b) s = (((readToken (atToken a w q (readStarted a b s))).andThen readAndSend).andThen
      fun t => (readElements (b.toNat - a.toNat - 32 * w - 1) t).andThen finishTransfer).outcome := by
  let u := readStarted a b s
  have started : ReadReady a u := readReady_readStarted a b ready quiet
  have inside := inside_of_validRange range
  obtain ⟨n, hn⟩ : ∃ n, b.toNat - a.toNat = 32 * w + (n + 1) :=
    ⟨b.toNat - a.toNat - 32 * w - 1, by unfold windowCount at window; omega⟩
  have windows : windowCount (32 * w) = w := by unfold windowCount; omega
  have before := readElements_readAt (32 * w) .rAnnounce q started (by omega)
  rw [windows, ← host] at before
  have start : atWindowStart (atToken a w q u).idx = true :=
    (atWindowStart_readAt a (32 * w) _ q started.first).mpr (by omega)
  have element : readElement (atToken a w q u) = (readToken (atToken a w q u)).andThen readAndSend := by
    rw [readElement_eq, beforeByte, if_pos start]
  have left : 32 * w + (n + 1) - 32 * w - 1 = n := by omega
  rw [exec_read_of_valid ready quiet range, hn, readElements_add, andThen_assoc, left]
  refine (congrArg (fun x : Flow => (x.andThen _).outcome) before).trans ?_
  rw [go_andThen, readElements, andThen_assoc, ← atToken, element]

/-- Settles O21: after `w` windows the token's first or second byte is awaited. -/
theorem readWaitsForToken : Obligations.ReadWaitsForToken := by
  intro s a b w ready quiet range window
  refine ⟨fun host => ?_, fun x host => ?_⟩
  · rw [exec_read_at_token (q := []) ready quiet range window (by rw [host, List.append_nil])]
    rfl
  · rw [exec_read_at_token ready quiet range window host]
    rfl

end Sys2Proof.Machine
end

section
/-! PROOFS. Write: its start, its indices, its completion and its waits (43_commands.md R220, R221; 44_flow_control.md
R245). -/

namespace Sys2Proof.Machine

open Sys2Proof.Safety

/-! ## Bytes stored in ascending order -/

theorem storeBytes_append (m : Memory) (a : Nat) (bs cs : List Byte) :
    storeBytes m a (bs ++ cs) = storeBytes (storeBytes m a bs) (a + bs.length) cs := by
  induction bs generalizing m a with
  | nil => rfl
  | cons b bs ih =>
    rw [List.cons_append, storeBytes, storeBytes, ih, List.length_cons, Nat.add_right_comm, Nat.add_assoc]

/-- Outside the bytes stored nothing changes. -/
theorem memRead_storeBytes_outside (m : Memory) {a x : Nat} (bs : List Byte) (outside : x < a ∨ a + bs.length ≤ x) :
    memRead (storeBytes m a bs) x = memRead m x := by
  induction bs generalizing m a with
  | nil => rfl
  | cons b bs ih =>
    rw [List.length_cons] at outside
    rw [storeBytes, ih _ (by omega), memRead_memWrite_other _ _ (by omega)]

/-- Each byte stored is read back. -/
theorem memRead_storeBytes_inside (m : Memory) (a : Nat) (bs : List Byte) {i : Nat} (inside : i < bs.length) :
    memRead (storeBytes m a bs) (a + i) = bs.getD i 0 := by
  induction bs generalizing m a i with
  | nil => cases inside
  | cons b bs ih =>
    cases i with
    | zero => rw [storeBytes, memRead_storeBytes_outside _ _ (by omega)]; exact memRead_memWrite_same m a b
    | succ i =>
      have next : a + (i + 1) = a + 1 + i := by omega
      rw [storeBytes, next, ih _ _ (by simpa using inside)]
      rfl

/-- A list is the range of its entries. -/
theorem map_getD_range (p : List Byte) : (List.range p.length).map (fun i => p.getD i 0) = p :=
  List.ext_getElem (by simp) fun i _ h => by simp [h]

/-! ## The start of a Write -/

/-- ENTER_WRITE with the pins quiet: its one event is the data lines becoming outputs. -/
theorem enterWrite_of_quiet {s : State} (quiet : pinsQuiet s) :
    enterWrite s = { s with mode := modeWrite, dOe := true, trace := s.trace ++ [.pin (.dOe true)] } := by
  obtain ⟨oe, we, released, -⟩ := quiet
  rw [enterWrite, enterMode_drive_of_inactive modeWrite oe we]
  simp [released]

/-- A valid Write goes through its indices. -/
theorem exec_write_of_valid {s : State} {a b : Addr} (quiet : pinsQuiet s) (range : validRange a b) :
    exec (.write a b) s =
      ((writeElements (b.toNat - a.toNat) { writeStarted a b s with ctl := .wEnter }).andThen
        finishTransfer).outcome := by
  let entering : State := { s with op := opWrite, startAddr := a, endAddr := b, ctl := .wEnter }
  have entered := enterWrite_of_quiet (s := entering) quiet
  have transfer : writeTransfer { entering with ctl := .check } =
      writeElements (b.toNat - a.toNat) { writeStarted a b s with ctl := .wEnter } := by
    change writeWindows (enterWrite entering) = _
    rw [entered]
    rfl
  rw [exec_write, rangeCommand_of_valid opWrite writeTransfer s range]
  exact congrArg (fun f : Flow => (f.andThen finishTransfer).outcome) transfer

/-! ## One index -/

/-- At W_RECV with no byte in the channel. -/
theorem receiveAndWrite_nil {s : State} (host : s.hostRx = []) :
    receiveAndWrite s = .stop { s with ctl := .wRecv, rxReady := true } := by
  rw [receiveAndWrite, rxByte_nil _ (by exact host), stop_andThen]

/-- The byte of an index in WRITE, the CORE driving the data lines. -/
theorem receiveAndWrite_cons {s : State} {x : Byte} {q : List Byte} (host : s.hostRx = x :: q)
    (mode : s.mode = modeWrite) (clock : s.srClk = false) (enable : s.weAct = false) (driven : s.dOe = true) :
    receiveAndWrite s = .go { s with
      ctl := .wWrite
      idx := s.idx + 1
      data := x
      rxReady := false
      hostRx := q
      dOut := x
      srData := (byteAddr s).getLsbD 0
      serAddr := byteAddr s
      serBit := 0
      serPhase := .idle
      busPhase := .idle
      dly := 0
      chain := byteAddr s
      mem := memWrite s.mem ((byteAddr s).extractLsb' 0 17).toNat x
      trace := s.trace ++ [.rx x] ++ writeByteEvents s.srData (byteAddr s) s.dOut x } := by
  let u : State := { acceptByte x q { s with ctl := .wRecv } with data := x, ctl := .wWrite }
  have written := writeByte_eq (byteAddr s) x (s := u) mode clock enable driven
  rw [receiveAndWrite, rxByte_cons _ (by exact host), go_andThen]
  refine (congrArg (Flow.andThen · _) written).trans ?_
  simp [u, acceptByte, clock, enable]

/-! ## The indices of a Write, from its start -/

section
variable (a : Addr) (p : Nat → Byte) (k : Nat) (s : State)

@[simp] theorem writeProgress_mode : (writeProgress a p k s).mode = s.mode := by cases k <;> rfl
@[simp] theorem writeProgress_startAddr : (writeProgress a p k s).startAddr = s.startAddr := by cases k <;> rfl
@[simp] theorem writeProgress_txReady : (writeProgress a p k s).txReady = s.txReady := by cases k <;> rfl
@[simp] theorem writeProgress_rst : (writeProgress a p k s).rst = s.rst := by cases k <;> rfl
@[simp] theorem writeProgress_cfg : (writeProgress a p k s).cfg = s.cfg := by cases k <;> rfl
@[simp] theorem writeProgress_oeAct : (writeProgress a p k s).oeAct = s.oeAct := by cases k <;> rfl
@[simp] theorem writeProgress_weAct : (writeProgress a p k s).weAct = s.weAct := by cases k <;> rfl
@[simp] theorem writeProgress_dOe : (writeProgress a p k s).dOe = s.dOe := by cases k <;> rfl
@[simp] theorem writeProgress_srClk : (writeProgress a p k s).srClk = s.srClk := by cases k <;> rfl
@[simp] theorem writeProgress_srData : (writeProgress a p k s).srData = dataLineBefore s.srData a k := by
  cases k <;> rfl
@[simp] theorem writeProgress_dOut : (writeProgress a p k s).dOut = outputBefore s.dOut p k := by cases k <;> rfl
@[simp] theorem writeProgress_mem :
    (writeProgress a p k s).mem = storeBytes s.mem a.toNat ((List.range k).map p) := by cases k <;> rfl
@[simp] theorem writeProgress_trace :
    (writeProgress a p k s).trace = s.trace ++ writePayloadTrace s.srData s.dOut a p k := by
  cases k with
  | zero => simp [writeProgress, writePayloadTrace]
  | succ k => rfl

end

theorem writeProgress_idx (a : Addr) (p : Nat → Byte) (k : Nat) {s : State} (first : s.idx = 0) :
    (writeProgress a p k s).idx = BitVec.ofNat 18 k := by
  cases k with
  | zero => exact first
  | succ k => rfl

theorem writePayloadTrace_succ (d : Bool) (o : Byte) (a : Addr) (p : Nat → Byte) (k : Nat) :
    writePayloadTrace d o a p (k + 1) = writePayloadTrace d o a p k ++
      ((if k % 32 = 0 then coBytes.map Event.tx else []) ++ [Event.rx (p k)] ++
        writeByteEvents (dataLineBefore d a k) (a + BitVec.ofNat 24 k) (outputBefore o p k) (p k)) := by
  simp [writePayloadTrace, List.range_succ]

/-- A Write after its first `k` indices, at label `c`, with `q` in the host's channel. -/
def writeAt (a : Addr) (p : Nat → Byte) (k : Nat) (c : Ctl) (q : List Byte) (s : State) : State :=
  { writeProgress a p k s with ctl := c, hostRx := q }

/-- A Write with the window of index `k` granted, if it begins one, its payload byte next. -/
def writeGranted (a : Addr) (p : Nat → Byte) (k : Nat) (c : Ctl) (q : List Byte) (s : State) : State :=
  { writeAt a p k (if k % 32 = 0 then .wGrant else c) q s with
    txData := 0x4F
    txValid := false
    encFrame := none
    encPos := 0
    trace := (writeProgress a p k s).trace ++ if k % 32 = 0 then coBytes.map Event.tx else [] }

theorem atWindowStart_writeAt (a : Addr) (p : Nat → Byte) (k : Nat) (c : Ctl) (q : List Byte) {s : State}
    (first : s.idx = 0) : atWindowStart (writeAt a p k c q s).idx = true ↔ k % 32 = 0 := by
  have index : (writeAt a p k c q s).idx = BitVec.ofNat 18 k := writeProgress_idx a p k first
  rw [atWindowStart_iff, index, BitVec.toNat_ofNat]
  omega

/-- Before the payload byte of index `k`: its window is granted; inside a window the encoder is as the last grant left
it. -/
theorem beforePayload_writeAt (a : Addr) (p : Nat → Byte) (k : Nat) (c : Ctl) (q : List Byte) {s : State}
    (ready : s.txReady = true) (first : s.idx = 0) :
    beforePayload (writeAt a p k c q s) = .go (writeGranted a p k c q s) := by
  rw [beforePayload]
  by_cases start : k % 32 = 0
  · rw [if_pos ((atWindowStart_writeAt a p k c q first).mpr start), writeGrant,
      emit_co_ready (by exact (writeProgress_txReady a p k s).trans ready)]
    simp [writeGranted, writeAt, start]
  · rw [if_neg (mt (atWindowStart_writeAt a p k c q first).mp start)]
    cases k with
    | zero => exact absurd rfl start
    | succ k => simp [writeGranted, writeAt, start, writeProgress]

/-- One more index, from the grant before it. -/
theorem writeAt_succ (a : Addr) (p : Nat → Byte) (k : Nat) (c : Ctl) (q : List Byte) (s : State) :
    writeAt a p (k + 1) .wWrite q s = { writeGranted a p k c (p k :: q) s with
      ctl := .wWrite
      idx := BitVec.ofNat 18 (k + 1)
      data := p k
      rxReady := false
      hostRx := q
      dOut := p k
      srData := (a + BitVec.ofNat 24 k).getLsbD 0
      serAddr := a + BitVec.ofNat 24 k
      serBit := 0
      serPhase := .idle
      busPhase := .idle
      dly := 0
      chain := a + BitVec.ofNat 24 k
      mem := memWrite (writeProgress a p k s).mem (a.toNat + k) (p k)
      trace := (writeGranted a p k c (p k :: q) s).trace ++ [.rx (p k)] ++
        writeByteEvents (writeProgress a p k s).srData (a + BitVec.ofNat 24 k) (writeProgress a p k s).dOut
          (p k) } := by
  have stored : storeBytes s.mem a.toNat ((List.range (k + 1)).map p) =
      memWrite (storeBytes s.mem a.toNat ((List.range k).map p)) (a.toNat + k) (p k) := by
    rw [List.range_succ, List.map_append, storeBytes_append, List.length_map, List.length_range]
    rfl
  have traced : (writeGranted a p k c (p k :: q) s).trace ++ [.rx (p k)] ++
      writeByteEvents (writeProgress a p k s).srData (a + BitVec.ofNat 24 k) (writeProgress a p k s).dOut (p k) =
      s.trace ++ writePayloadTrace s.srData s.dOut a p (k + 1) := by
    simp [writeGranted, writePayloadTrace_succ]
  rw [traced, writeProgress_mem, ← stored]
  cases k <;> rfl

/-- A started Write with the sink ready (43_commands.md R220). -/
structure WriteReady (a : Addr) (s : State) : Prop where
  ready : s.txReady = true
  enable : s.weAct = false
  driven : s.dOe = true
  clock : s.srClk = false
  mode : s.mode = modeWrite
  start : s.startAddr = a
  first : s.idx = 0

theorem writeReady_writeStarted {s : State} (a b : Addr) (ready : s.txReady = true) (quiet : pinsQuiet s) :
    WriteReady a (writeStarted a b s) := by
  obtain ⟨-, enable, -, clock⟩ := quiet
  exact ⟨ready, enable, rfl, clock, rfl, rfl, rfl⟩

/-- One index of a Write: its window is granted, if it begins one, and its byte is received and written. -/
theorem writeElement_writeAt {a : Addr} (p : Nat → Byte) {k : Nat} (c : Ctl) (q : List Byte) {s : State}
    (h : WriteReady a s) (inside : a.toNat + k < Config.memSize) :
    writeElement (writeAt a p k c (p k :: q) s) = .go (writeAt a p (k + 1) .wWrite q s) := by
  have small : k < 2 ^ 18 := by unfold Config.memSize at inside; omega
  let t := writeGranted a p k c (p k :: q) s
  have index : t.idx = BitVec.ofNat 18 k := writeProgress_idx a p k h.first
  have address : byteAddr t = a + BitVec.ofNat 24 k :=
    byteAddr_of_idx ((writeProgress_startAddr a p k s).trans h.start) index small
  have next : BitVec.ofNat 18 k + 1 = BitVec.ofNat 18 (k + 1) := (BitVec.ofNat_add k 1).symm
  rw [writeElement_eq, beforePayload_writeAt a p k c _ h.ready h.first, go_andThen,
    receiveAndWrite_cons (s := t) rfl ((writeProgress_mode a p k s).trans h.mode)
      ((writeProgress_srClk a p k s).trans h.clock) ((writeProgress_weAct a p k s).trans h.enable)
      ((writeProgress_dOe a p k s).trans h.driven),
    address, index, next, chipLines_of_index inside, writeAt_succ a p k c]
  rfl

/-- The indices of a Write in two parts. -/
theorem writeElements_add (j k : Nat) (s : State) :
    writeElements (j + k) s = (writeElements j s).andThen (writeElements k) := by
  induction j generalizing s with
  | zero => rw [Nat.zero_add]; rfl
  | succ j ih =>
    rw [Nat.add_right_comm, writeElements, writeElements, andThen_assoc]
    exact congrArg _ (funext ih)

/-- The first `k` indices of a Write whose host sends their bytes and then `q`. -/
theorem writeElements_writeAt {a : Addr} (p : Nat → Byte) (k : Nat) (c : Ctl) (q : List Byte) {s : State}
    (h : WriteReady a s) (inside : a.toNat + k ≤ Config.memSize) :
    writeElements k (writeAt a p 0 c ((List.range k).map p ++ q) s) =
      .go (writeAt a p k (if k = 0 then c else .wWrite) q s) := by
  induction k generalizing q with
  | zero => rfl
  | succ k ih =>
    rw [List.range_succ, List.map_append, List.append_assoc, writeElements_add, ih _ (by omega), go_andThen,
      writeElements]
    refine (congrArg (Flow.andThen · _) (writeElement_writeAt p _ q h (by omega))).trans ?_
    rfl

/-- A Write with the bytes `p` sent has written those. -/
theorem exec_write_after {s : State} {a b : Addr} {p q : List Byte} {n : Nat} (ready : s.txReady = true)
    (quiet : pinsQuiet s) (range : validRange a b) (length : b.toNat - a.toNat = p.length + n)
    (host : s.hostRx = p ++ q) :
    exec (.write a b) s =
      ((writeElements n (writeAt a (fun i => p.getD i 0) p.length (if p.length = 0 then .wEnter else .wWrite) q
        (writeStarted a b s))).andThen finishTransfer).outcome := by
  have inside := inside_of_validRange range
  have before := writeElements_writeAt (fun i => p.getD i 0) p.length .wEnter q
    (writeReady_writeStarted a b ready quiet) (by omega)
  rw [map_getD_range, ← host] at before
  rw [exec_write_of_valid quiet range, length, writeElements_add, andThen_assoc]
  refine (congrArg (fun x : Flow => (x.andThen _).outcome) before).trans ?_
  rw [go_andThen]

/-! ## Completion -/

/-- Settles O23: the indices with their bytes (`exec_write_after`), the closing frame, and the bytes stored. -/
theorem writeCompletes : Obligations.WriteCompletes := by
  intro s a b p rest ready quiet range length host
  let u := writeStarted a b s
  let v := writeAt a (fun i => p.getD i 0) p.length (if p.length = 0 then .wEnter else .wWrite) rest u
  obtain ⟨oe, we, -, -⟩ := id quiet
  have closed : finishTransfer v = .go (transferDone v) :=
    finishTransfer_eq ((writeProgress_txReady a _ _ u).trans ready) ((writeProgress_oeAct a _ _ u).trans oe)
      ((writeProgress_weAct a _ _ u).trans we)
  have memory : (transferDone v).mem = storeBytes s.mem a.toNat p :=
    (writeProgress_mem a _ _ u).trans (congrArg _ (map_getD_range p))
  refine ⟨transferDone v, ?_, ?_, fun i inside => ?_, fun x outside => ?_⟩
  · rw [exec_write_after (n := 0) ready quiet range length.symm host]
    exact congrArg Flow.outcome closed
  · rw [← length]; rfl
  · rw [memory, memRead_storeBytes_inside _ _ _ inside]
  · rw [memory, memRead_storeBytes_outside]
    obtain ⟨below, -⟩ := range
    omega

/-! ## The link of a Write -/

@[simp] theorem linkEvents_writeByteEvents (d : Bool) (a : Addr) (o v : Byte) :
    linkEvents (writeByteEvents d a o v) = [] := by
  simp only [writeByteEvents, linkEvents_append, linkEvents_serializeEvents, linkEvents_pinEvent]
  rfl

theorem writePayloadLink_succ (p : Nat → Byte) (n : Nat) :
    writePayloadLink p (n + 1) = writePayloadLink p n ++
      ((if n % 32 = 0 then coBytes.map Event.tx else []) ++ [Event.rx (p n)]) := by
  simp [writePayloadLink, List.range_succ]

@[simp] theorem linkEvents_rx_cons (b : Byte) (t : List Event) : linkEvents (.rx b :: t) = .rx b :: linkEvents t := rfl

@[simp] theorem linkEvents_pin_cons (p : PinChange) (t : List Event) : linkEvents (.pin p :: t) = linkEvents t := rfl

/-- The link of a Write's indices: the grants and the bytes. -/
theorem linkEvents_writePayloadTrace (d : Bool) (o : Byte) (a : Addr) (p : Nat → Byte) (n : Nat) :
    linkEvents (writePayloadTrace d o a p n) = writePayloadLink p n := by
  induction n with
  | zero => rfl
  | succ n ih =>
    rw [writePayloadTrace_succ, linkEvents_append, ih, writePayloadLink_succ]
    by_cases start : n % 32 = 0 <;> simp [start]

/-- A Write sends its grants. -/
theorem sentBytes_writePayloadLink (p : Nat → Byte) (n : Nat) :
    sentBytes (writePayloadLink p n) = tokens (windowCount n) := by
  induction n with
  | zero => rfl
  | succ n ih =>
    rw [writePayloadLink_succ, sentBytes_append, ih, tokens_windowCount_succ]
    by_cases start : n % 32 = 0 <;> simp [start, sentBytes_map_tx] <;> rfl

/-- A Write receives its bytes. -/
theorem receivedBytes_writePayloadLink (p : Nat → Byte) (n : Nat) :
    receivedBytes (writePayloadLink p n) = (List.range n).map p := by
  induction n with
  | zero => rfl
  | succ n ih =>
    rw [writePayloadLink_succ, receivedBytes_append, ih, List.range_succ, List.map_append]
    by_cases start : n % 32 = 0 <;> simp [start, receivedBytes_map_tx] <;> rfl

/-- The link of a completed Write. -/
theorem linkEvents_writeCompleted (s : State) (a b : Addr) (p : Nat → Byte) (n : Nat) :
    linkEvents (transferDone (writeProgress a p n (writeStarted a b s))).trace =
      linkEvents s.trace ++ writePayloadLink p n ++ okBytes.map Event.tx := by
  have closed : linkEvents [] = [] := rfl
  simp [transferDone, writeStarted, linkEvents_writePayloadTrace, closed]

/-- Settles O24: the link of the completed Write, and what of it is sent and received. -/
theorem writeLinkStream : Obligations.WriteLinkStream := by
  intro s a b p rest ready quiet range length host
  obtain ⟨t, executed, rfl, -, -⟩ := writeCompletes s a b p rest ready quiet range length host
  have link := linkEvents_writeCompleted s a b (fun i => p.getD i 0) (b.toNat - a.toNat)
  refine ⟨_, executed, rfl, rfl, rfl, rfl, link, ?_, ?_⟩
  · rw [← sentBytes_linkEvents]
    refine (congrArg sentBytes link).trans ?_
    simp only [sentBytes_append, sentBytes_linkEvents, sentBytes_map_tx, sentBytes_writePayloadLink]
  · rw [← receivedBytes_linkEvents]
    refine (congrArg receivedBytes link).trans ?_
    simp only [receivedBytes_append, receivedBytes_linkEvents, receivedBytes_map_tx, receivedBytes_writePayloadLink,
      List.append_nil, ← length, map_getD_range]

/-! ## Waits -/

/-- Settles O25: after the `k` bytes sent, the window is granted where one begins, and W_RECV waits. -/
theorem writeWaitsForPayload : Obligations.WriteWaitsForPayload := by
  intro s a b p ready quiet range short host
  let q := fun i => p.getD i 0
  let u := writeStarted a b s
  obtain ⟨n, hn⟩ : ∃ n, b.toNat - a.toNat = p.length + (n + 1) := ⟨b.toNat - a.toNat - p.length - 1, by omega⟩
  rw [exec_write_after ready quiet range hn (q := []) (by rw [host, List.append_nil]), writeElements, writeElement_eq,
    beforePayload_writeAt a q p.length _ [] (s := u) ready rfl, go_andThen, receiveAndWrite_nil (by rfl), stop_andThen,
    stop_andThen, outcome_stop]
  by_cases start : p.length % 32 = 0
  · simp [writeGranted, writeAt, start, q, u]
  · cases hk : p.length with
    | zero => exact absurd (by rw [hk]) start
    | succ k => simp [hk ▸ start, writeGranted, writeAt, writeProgress, q, u]

end Sys2Proof.Machine
end

section
/-! PROOFS. Commands whose host does not accept (60_exceptions.md, the abort procedure; 10_state.md R29). -/

namespace Sys2Proof.Machine

open Sys2Proof.Safety

/-- Settles O22: the first frame of either transfer is its CO. -/
theorem transfersWaitForSink : Obligations.TransfersWaitForSink := by
  refine fun s a b refused quiet range => ⟨?_, ?_⟩
  · let entering : State := { s with op := 0x52, startAddr := a, endAddr := b, ctl := .rEnter }
    have entered : enterRead entering = { entering with mode := modeRead } := enterRead_of_quiet quiet
    have announce := emit_wait .co (s := { entering with mode := modeRead, ctl := .rAnnounce }) refused
    have transfer : readTransfer { entering with ctl := .check } =
        .stop (startFrame .co { entering with mode := modeRead, ctl := .rAnnounce }) := by
      change (emit .co { enterRead entering with ctl := .rAnnounce }).andThen readWindows = _
      rw [entered, announce, stop_andThen]
    rw [exec_read, rangeCommand_of_valid opRead readTransfer s range]
    exact congrArg (fun f : Flow => (f.andThen finishTransfer).outcome) transfer
  · let u : State := { writeStarted a b s with ctl := .wEnter }
    obtain ⟨n, hn⟩ : ∃ n, b.toNat - a.toNat = n + 1 := ⟨b.toNat - a.toNat - 1, by obtain ⟨below, -⟩ := range; omega⟩
    have start : atWindowStart u.idx = true := rfl
    have grant : writeGrant u = .stop (startFrame .co { u with ctl := .wGrant }) := emit_wait .co refused
    rw [exec_write_of_valid quiet range, hn, writeElements, writeElement_eq, beforePayload, if_pos start, grant]
    rfl

/-- An abort with the sink not ready offers the Error frame's first byte. -/
theorem raiseAbort_refused (c : Cause) (v : Option Addr) {s : State} (refused : s.txReady = false) :
    raiseAbort c v s = .stop (offering .errEmit .ng 0x4E { s with cause := c, causeVal := v.getD s.causeVal }) :=
  raiseAbort_wait c v refused

/-- A Read or Write that fails validation with the sink not ready. -/
theorem exec_of_invalid_refused {s : State} {i : Instr} {op : Byte} {a b : Addr} {c : Cause} {v : Option Addr}
    (refused : s.txReady = false) (command : i = .read a b ∧ op = 0x52 ∨ i = .write a b ∧ op = 0x57)
    (invalid : validate a b = some (c, v)) :
    exec i s = .next (offering .errEmit .ng 0x4E
      { s with op := op, startAddr := a, endAddr := b, cause := c, causeVal := v.getD s.causeVal }) := by
  obtain ⟨transfer, executed⟩ := exec_rangeCommand command s
  rw [executed, rangeCommand_of_invalid op transfer s invalid, raiseAbort_refused c v (by exact refused)]
  rfl

/-- Settles O16: the causes of the two commands that abort at once, and the two edges from R_TOKCHK: the comparison,
then the first offer. -/
theorem abortWaitsForHost : Obligations.AbortWaitsForHost := by
  refine fun s refused => ⟨fun op _ _ _ => ?_, fun i op a b command => ⟨fun start => ?_, fun start stop => ?_,
    fun start stop order => ?_⟩, fun hr hc sent bad => ?_⟩
  · rw [exec_unknown, raiseAbort_refused .unknownCmd none (by exact refused)]
    rfl
  · exact exec_of_invalid_refused refused command (validate_startOob b start)
  · exact exec_of_invalid_refused refused command (validate_endOob start stop)
  · exact exec_of_invalid_refused refused command (validate_rangeOrder start stop order)
  · let u := beginAbort .flowDesync none s
    have compared : step s = .next u := by
      rw [step_eq_tick hr (fetch_of_ctl (by simp [hc]))]
      simp only [tick, hc, tickToken, if_neg (mt (tokenMatches_iff s.tok0 s.tok1).mp bad), outcome_go, u]
    have offered : step u = .next (startFrame .ng u) := by
      rw [step_eq_tick (s := u) hr (fetch_of_ctl (by simp [u, beginAbort]))]
      exact congrArg Flow.outcome (congrArg Flow.go (tickEmit_offer .ng afterErrorFrame (s := u) sent))
    rw [run_succ_next 1 compared, run_one, offered]
    rfl

end Sys2Proof.Machine
end

section
/-! PROOFS. Two commands one after the other (60_exceptions.md, return and nesting; 20_memory.md R71; log entry 1). -/

namespace Sys2Proof.Machine

open Sys2Proof.Safety

/-! ## After an abort -/

/-- A step that ends in an abort of cause `c` leaves the CORE where the next frame runs; `x` is the state before the
Error frame. -/
theorem next_after_abort {s x : State} {c : Cause} {v : Addr} {sent tail : List Byte} {j : Instr} {rest : List Byte}
    (first : step s = .next (afterAbort (message s.cfg c v) x)) (hr : running x) (quiet : pinsQuiet x)
    (memory : x.mem = s.mem) (host : x.hostRx = encode j ++ rest) (value : reports c v)
    (none_sent : tail = [] → sent = []) (link : sentBytes x.trace = sentBytes s.trace ++ sent)
    (hj : j.wellFormed = true) :
    ∃ (u : State) (c : Cause) (v : Addr) (sent : List Byte), step s = .next u ∧ running u ∧ u.ctl = .sync 0 ∧
      pinsQuiet u ∧ u.cause = .none ∧ u.txValid = false ∧ u.mem = s.mem ∧ u.hostRx = encode j ++ rest ∧
      reports c v ∧ (tail = [] → sent = []) ∧
      sentBytes u.trace = sentBytes s.trace ++ sent ++ errorBytes (message s.cfg c v) ∧
      run 2 s = exec j { u with rxReady := false, hostRx := rest, trace := u.trace ++ (encode j).map Event.rx } := by
  let u := afterAbort (message s.cfg c v) x
  have legal : running u := by
    refine ⟨hr.1, ?_⟩
    change (if x.cfg.abortToIdle then modeIdle else x.mode) ≠ modeIllegal
    split
    · decide
    · exact hr.2
  have sentAll : sentBytes u.trace = sentBytes s.trace ++ sent ++ errorBytes (message s.cfg c v) := by
    rw [← link]
    exact (sentBytes_append ..).trans (by rw [sentBytes_map_tx])
  exact ⟨u, c, v, sent, first, legal, rfl, quiet, rfl, rfl, memory, host, value, none_sent, sentAll,
    by rw [run_succ_next 1 first, run_one, step_of_frame legal rfl hj host]⟩

/-- A failed VALIDATE's cause can report what it does. -/
theorem reports_of_validate {a b : Addr} {c : Cause} {v : Option Addr} (w : Addr) (h : validate a b = some (c, v)) :
    reports c (v.getD w) := by
  obtain ⟨rfl, rfl, large⟩ | ⟨rfl, rfl, -, large⟩ | ⟨rfl, rfl, -⟩ := validate_eq_some h
  · exact large
  · exact large
  · trivial

theorem sentBytes_readPayloadTrace (d : Bool) (a : Addr) (v : Nat → Byte) (n : Nat) :
    sentBytes (readPayloadTrace d a v n) = (List.range n).map v := by
  rw [← sentBytes_linkEvents, linkEvents_readPayloadTrace, sentBytes_readPayloadLink]

theorem readProgress_rst (a : Addr) (k : Nat) (s : State) : (readProgress a k s).rst = s.rst := by
  cases k <;> rfl

/-- What a Read has sent after its first `n` indices. -/
theorem sentBytes_readProgress (a b : Addr) (n : Nat) (s : State) :
    sentBytes (readProgress a n (readStarted a b s)).trace =
      sentBytes s.trace ++ coBytes ++ (List.range n).map (sampledAt a (readStarted a b s)) := by
  rw [readProgress_trace, sentBytes_append, sentBytes_readPayloadTrace]
  congr 1
  exact (sentBytes_append ..).trans (by rw [sentBytes_map_tx])

/-- Settles O17: each of the three commands ends in an abort (`next_after_abort`). -/
theorem abortThenNextCommand : Obligations.AbortThenNextCommand := by
  intro s i j tail rest hr hc ready quiet hi hj host kind
  rw [List.append_assoc, List.append_assoc] at host
  let v : State := { s with
    rxReady := false, hostRx := tail ++ (encode j ++ rest), trace := s.trace ++ (encode i).map Event.rx }
  have frame : step s = exec i v := step_of_frame hr hc hi host
  have received : sentBytes v.trace = sentBytes s.trace := by
    rw [sentBytes_append, sentBytes_map_rx, List.append_nil]
  obtain ⟨⟨op, rfl⟩, rfl⟩ | ⟨⟨a, b, command, invalid⟩, rfl⟩ | ⟨a, b, w, t0, t1, rfl, range, window, bad, rfl⟩ := kind
  · have abort : step s = .next (afterAbort (message s.cfg .unknownCmd s.causeVal) { v with op := op }) := by
      rw [frame, exec_unknown, raiseAbort_of_quiet .unknownCmd none (s := { v with op := op }) ready quiet]
      rfl
    exact next_after_abort (sent := []) abort hr quiet rfl rfl trivial (fun _ => rfl) (by simpa using received) hj
  · obtain ⟨c, value, failed⟩ : ∃ c value, validate a b = some (c, value) := by
      cases h : validate a b with
      | none => exact absurd ((validate_eq_none a b).mp h) invalid
      | some failed => exact ⟨failed.1, failed.2, rfl⟩
    have operation : ∃ op : Byte, i = .read a b ∧ op = 0x52 ∨ i = .write a b ∧ op = 0x57 :=
      command.elim (fun h => ⟨0x52, .inl ⟨h, rfl⟩⟩) fun h => ⟨0x57, .inr ⟨h, rfl⟩⟩
    obtain ⟨op, command⟩ := operation
    exact next_after_abort (sent := []) (frame.trans (exec_of_invalid (s := v) ready quiet command failed)) hr quiet rfl
      rfl (reports_of_validate s.causeVal failed) (fun _ => rfl) (by simpa using received) hj
  · have abort := readDesyncAborts v a b w t0 t1 (encode j ++ rest) ready quiet range window bad (by simp [v])
    let u := readProgress a (32 * w) (readStarted a b v)
    let d := sampledAt a (readStarted a b v)
    have mode : u.mode = modeRead := readProgress_mode a (32 * w) (readStarted a b v)
    have reset : u.rst = false := (readProgress_rst a (32 * w) (readStarted a b v)).trans hr.1
    have token : sentBytes [.rx t0, .rx t1] = [] := rfl
    refine next_after_abort (c := .flowDesync) (v := 0) (sent := coBytes ++ (List.range (32 * w)).map d)
      (frame.trans abort) ⟨reset, mode ▸ by decide⟩ (pinsQuiet_readProgress a (32 * w) (s := readStarted a b v) quiet)
      (readProgress_mem a (32 * w) _) rfl trivial (fun empty => by simp at empty) ?_ hj
    rw [sentBytes_append, token, sentBytes_readProgress, received, List.append_nil, List.append_assoc]

/-! ## A round trip -/

/-- A Read of a range that holds `p`, with the reference SRAM, sends `p` between CO and OK. -/
theorem exec_read_of_stored {s : State} {a b : Addr} {p rest : List Byte} (ready : s.txReady = true)
    (quiet : pinsQuiet s) (chip : s.cfg.chip = .reference) (range : validRange a b)
    (length : p.length = b.toNat - a.toNat)
    (stored : ∀ i, i < p.length → memRead s.mem (a.toNat + i) = p.getD i 0)
    (host : s.hostRx = tokens (windowCount p.length) ++ rest) :
    ∃ t, exec (.read a b) s = .next t ∧ t.hostRx = rest ∧
      sentBytes t.trace = sentBytes s.trace ++ (coBytes ++ p ++ okBytes) := by
  refine ⟨_, readCompletes s a b rest ready quiet range (length ▸ host), rfl, ?_⟩
  have sampled : (List.range p.length).map (sampledAt a (readStarted a b s)) = p := by
    calc (List.range p.length).map (sampledAt a (readStarted a b s))
        = (List.range p.length).map fun i => p.getD i 0 := List.map_congr_left fun i hi =>
          (sampledAt_reference a (s := readStarted a b s) chip i).trans (stored i (List.mem_range.mp hi))
      _ = p := map_getD_range p
  refine (congrArg sentBytes (trace_readCompleted a b quiet)).trans ?_
  simp only [sentBytes_append, sentBytes_map_tx, sentBytes_readPayloadTrace, ← length, sampled, List.append_assoc]

/-- Settles O26: the Write of the first step stores the payload, and the Read of the second samples what is stored. -/
theorem roundTripWriteThenRead : Obligations.RoundTripWriteThenRead := by
  intro s a b p rest hr hc ready quiet chip range length host
  simp only [List.append_assoc] at host
  let s1 : State := { s with
    rxReady := false
    hostRx := p ++ (encode (.read a b) ++ (tokens (windowCount p.length) ++ rest))
    trace := s.trace ++ (encode (.write a b)).map Event.rx }
  have write : step s = exec (.write a b) s1 := step_of_frame hr hc rfl host
  obtain ⟨t, executed, rfl, stored, -⟩ := writeCompletes s1 a b p _ ready quiet range length rfl
  obtain ⟨_, executed', -, -, -, -, -, sent, -⟩ := writeLinkStream s1 a b p _ ready quiet range length rfl
  obtain rfl := Host.Outcome.next.inj (executed.symm.trans executed')
  let u := writeProgress a (fun i => p.getD i 0) (b.toNat - a.toNat) (writeStarted a b s1)
  let t : State := { transferDone u with hostRx := encode (.read a b) ++ (tokens (windowCount p.length) ++ rest) }
  let t1 : State := { t with
    rxReady := false
    hostRx := tokens (windowCount p.length) ++ rest
    trace := t.trace ++ (encode (.read a b)).map Event.rx }
  obtain ⟨oe, we, -, clock⟩ := quiet
  have quiet1 : pinsQuiet t1 := ⟨(writeProgress_oeAct ..).trans oe, (writeProgress_weAct ..).trans we, rfl,
    (writeProgress_srClk ..).trans clock⟩
  have running1 : running t := ⟨(writeProgress_rst ..).trans hr.1, show modeIdle ≠ modeIllegal by decide⟩
  have build : t1.cfg = s.cfg := writeProgress_cfg ..
  have read : step t = exec (.read a b) t1 := step_of_frame running1 rfl rfl rfl
  obtain ⟨v, executed2, channel, sent2⟩ := exec_read_of_stored (s := t1) ((writeProgress_txReady ..).trans ready) quiet1
    (build ▸ chip) range length stored rfl
  refine ⟨v, ?_, channel, ?_⟩
  · rw [run_succ_next 1 (write.trans executed), run_one, ← executed2, ← read]
  · rw [sent2, sentBytes_append, sentBytes_map_rx, List.append_nil, length]
    refine congrArg (· ++ _) (sent.trans ?_)
    rw [sentBytes_append, sentBytes_map_rx, List.append_nil, List.append_assoc]

/-! ## The SRAM outside the range of a Write -/

section
variable {m : Memory}

/-- The SRAM's contents are `m` and no write pulse runs. -/
abbrev Holds (m : Memory) (s : State) : Prop := s.weAct = false ∧ s.mem = m

theorem holds_txByte (b : Byte) {s : State} (h : Holds m s) : (txByte b s).All (Holds m) := by
  unfold txByte
  split <;> exact h

theorem holds_emitFrom (f : FrameKind) (pos : Nat) (bs : List Byte) {s : State} (h : Holds m s) :
    (emitFrom f pos bs s).All (Holds m) := by
  induction bs generalizing pos s with
  | nil => exact h
  | cons b bs ih => exact .andThen (holds_txByte b (by exact h)) fun t ht => ih (pos + 1) ht

theorem holds_emit (f : FrameKind) {s : State} (h : Holds m s) : (emit f s).All (Holds m) := holds_emitFrom f 0 _ h

theorem holds_rxByte {store : Byte → State → State} (stores : ∀ b u, Holds m u → Holds m (store b u)) {s : State}
    (h : Holds m s) : (rxByte store s).All (Holds m) := by
  unfold rxByte
  split
  · exact h
  · exact stores _ _ h

theorem holds_enterMode (mode : BitVec 2) (drive : Bool) {s : State} (h : Holds m s) :
    Holds m (enterMode mode drive s) := by
  obtain ⟨inactive, memory⟩ := h
  exact ⟨rfl, by simp [enterMode, inactive, memory]⟩

theorem holds_abortReturn {s : State} (h : Holds m s) : Holds m (abortReturn s) := by
  unfold abortReturn afterErrorFrame
  split
  · exact holds_enterMode modeIdle false (s := { s with ctl := .errIdle }) h
  · exact h

theorem holds_raiseAbort (c : Cause) (v : Option Addr) {s : State} (h : Holds m s) :
    (raiseAbort c v s).All (Holds m) :=
  .andThen (holds_emit .ng (s := beginAbort c v s) h) fun _ ht => holds_abortReturn ht

/-- A READ_BYTE moves no pin of a write (41_bus_mode_controller.md R156). -/
theorem holds_readByte (a : Addr) {s : State} (h : Holds m s) : (readByte a s).All (Holds m) := by
  obtain ⟨inactive, memory⟩ := h
  unfold readByte
  split
  · exact ⟨by simp [inactive], by simp [memory]⟩
  · trivial

theorem holds_readToken {s : State} (h : Holds m s) : (readToken s).All (Holds m) := by
  refine .andThen (holds_rxByte (store := fun b s => { s with tok0 := b }) (s := { s with ctl := .rToken0 })
    (fun _ _ hu => hu) h) fun t ht => ?_
  refine .andThen (holds_rxByte (store := fun b s => { s with tok1 := b }) (s := { t with ctl := .rToken1 })
    (fun _ _ hu => hu) ht) fun u hu => ?_
  split
  · exact hu
  · exact holds_raiseAbort .flowDesync none (s := { u with ctl := .rTokchk }) hu

theorem holds_readElement {s : State} (h : Holds m s) : (readElement s).All (Holds m) := by
  have before : (beforeByte s).All (Holds m) := by
    unfold beforeByte
    split
    · exact holds_readToken h
    · exact h
  refine .andThen before fun t ht => .andThen (holds_readByte _ (by exact ht)) fun u hu => ?_
  exact .andThen (holds_txByte _ (by exact hu)) fun _ hv => hv

theorem holds_readElements (n : Nat) {s : State} (h : Holds m s) : (readElements n s).All (Holds m) := by
  induction n generalizing s with
  | zero => exact h
  | succ n ih => exact .andThen (holds_readElement h) fun _ ht => ih ht

theorem holds_readTransfer {s : State} (h : Holds m s) : (readTransfer s).All (Holds m) :=
  .andThen (holds_emit .co (s := { enterRead { s with ctl := .rEnter } with ctl := .rAnnounce })
    (holds_enterMode modeRead false (s := { s with ctl := .rEnter }) h)) fun t ht =>
    holds_readElements (rangeLen t) (s := { t with idx := 0 }) ht

theorem holds_finishTransfer {s : State} (h : Holds m s) : (finishTransfer s).All (Holds m) :=
  .andThen (holds_emit .ok (s := { s with ctl := .doneOk }) h) fun t ht =>
    holds_enterMode modeIdle false (s := { t with ctl := .doneIdle }) ht

/-- A range command whose transfer keeps the contents, or whose range is invalid, keeps them. -/
theorem holds_rangeCommand (op : Byte) {a b : Addr} {transfer : State → Flow} {s : State}
    (transfers : validRange a b → ∀ t, Holds m t → (transfer t).All (Holds m)) (h : Holds m s) :
    (rangeCommand op a b transfer s).All (Holds m) := by
  let u : State := { s with op := op, startAddr := a, endAddr := b, ctl := .check }
  cases checked : validate a b with
  | some failed =>
    rw [rangeCommand_of_invalid op transfer s checked]
    exact holds_raiseAbort failed.1 failed.2 (s := u) h
  | none =>
    have range := (validate_eq_none a b).mp checked
    rw [rangeCommand_of_valid op transfer s range]
    exact .andThen (transfers range u h) fun _ ht => holds_finishTransfer ht

end

/-- A command that is not a Write of a valid range keeps the contents. -/
theorem mem_of_exec {i : Instr} {s t : State} (quiet : pinsQuiet s) (executed : exec i s = .next t)
    (other : ∀ a b, i = .write a b → ¬ validRange a b) : t.mem = s.mem := by
  have before : Holds s.mem s := ⟨quiet.2.1, rfl⟩
  suffices after : Holds s.mem t from after.2
  cases i with
  | status =>
    refine Flow.All.of_outcome ?_ executed
    exact .andThen (holds_emit .ok (by exact before)) fun _ hu => hu
  | read a b =>
    exact Flow.All.of_outcome (holds_rangeCommand opRead (fun _ _ => holds_readTransfer) before) executed
  | write a b =>
    exact Flow.All.of_outcome
      (holds_rangeCommand opWrite (fun range => absurd range (other a b rfl)) before) executed
  | unknown op =>
    exact Flow.All.of_outcome (holds_raiseAbort .unknownCmd none (s := { s with op := op }) before) executed

/-- A valid Write keeps every byte outside its range, whether it completes or waits. -/
theorem memRead_of_exec_write {a b : Addr} {s t : State} {x : Nat} (quiet : pinsQuiet s) (range : validRange a b)
    (executed : exec (.write a b) s = .next t) (outside : x < a.toNat ∨ b.toNat ≤ x) :
    memRead t.mem x = memRead s.mem x := by
  cases ready : s.txReady with
  | false =>
    obtain ⟨-, waits⟩ := transfersWaitForSink s a b ready quiet range
    obtain rfl := Host.Outcome.next.inj (executed.symm.trans waits)
    rfl
  | true =>
    rcases Nat.lt_or_ge s.hostRx.length (b.toNat - a.toNat) with short | whole
    · have waits := writeWaitsForPayload s a b s.hostRx ready quiet range short rfl
      obtain rfl := Host.Outcome.next.inj (executed.symm.trans waits)
      have memory := writeProgress_mem a (fun i => s.hostRx.getD i 0) s.hostRx.length (writeStarted a b s)
      rw [map_getD_range] at memory
      have read : memRead (storeBytes s.mem a.toNat s.hostRx) x = memRead s.mem x :=
        memRead_storeBytes_outside _ _ (by omega)
      split <;> exact (congrArg (memRead · x) memory).trans read
    · obtain ⟨u, done, -, -, others⟩ := writeCompletes s a b (s.hostRx.take (b.toNat - a.toNat))
        (s.hostRx.drop (b.toNat - a.toNat)) ready quiet range (List.length_take_of_le whole)
        (List.take_append_drop ..).symm
      obtain rfl := Host.Outcome.next.inj (executed.symm.trans done)
      exact others x outside

/-- Settles O27: only a valid Write changes the contents, and it keeps every byte outside its range. -/
theorem onlyWriteChangesMemory : Obligations.OnlyWriteChangesMemory := by
  intro i s t x quiet executed outside
  by_cases write : ∃ a b, i = .write a b ∧ validRange a b
  · obtain ⟨a, b, rfl, range⟩ := write
    exact memRead_of_exec_write quiet range executed (outside a b rfl)
  · rw [mem_of_exec quiet executed fun a b command range => write ⟨a, b, command, range⟩]

end Sys2Proof.Machine
end

section
/-! PROOFS. The bus: SERIALIZE's clock pulses (40_address_serializer.md R131 to R133), the transactions clock by clock
(41_bus_mode_controller.md, section 3), and the settle delays (10_state.md R33). -/

namespace Sys2Proof.Machine

open Sys2Proof.Safety

/-! ## SERIALIZE -/

/-- Bits `k - 1` down to 0 are on `sr_data` at the rising edges. -/
theorem clockedBits_serializeEventsFrom (a : Addr) (k : Nat) (d : Bool) :
    clockedBits d (serializeEventsFrom a k d) = (List.range k).map fun i => a.getLsbD (k - 1 - i) := by
  induction k generalizing d with
  | zero => rfl
  | succ k ih =>
    have pulse : clockedBits d (serializeEventsFrom a (k + 1) d) =
        a.getLsbD k :: clockedBits (a.getLsbD k) (serializeEventsFrom a k (a.getLsbD k)) := by
      by_cases same : d = a.getLsbD k
      · simp [serializeEventsFrom, pinEvent, ← same, clockedBits]
      · simp [serializeEventsFrom, pinEvent, same, clockedBits]
    rw [pulse, ih, List.range_succ_eq_map, List.map_cons, List.map_map]
    refine congrArg₂ List.cons rfl (List.map_congr_left fun i _ => ?_)
    rw [Function.comp_apply, Nat.add_sub_cancel, Nat.sub_sub, Nat.add_comm 1]

/-- One high-low pulse for each bit. -/
theorem clockLevels_serializeEventsFrom (a : Addr) (k : Nat) (d : Bool) :
    clockLevels (serializeEventsFrom a k d) = (List.replicate k [true, false]).flatten := by
  induction k generalizing d with
  | zero => rfl
  | succ k ih =>
    have data : ∀ x v, clockLevels (pinEvent x (.srData v)) = [] := fun x v => by cases x <;> rfl
    have pulse : clockLevels [.pin (.srClk true), .pin (.srClk false)] = [true, false] := rfl
    have append : ∀ t u, clockLevels (t ++ u) = clockLevels t ++ clockLevels u := fun _ _ => List.filterMap_append
    rw [serializeEventsFrom, append, append, data, pulse, ih, List.nil_append, List.replicate_succ, List.flatten_cons]

/-- Settles O28: the events are those of `serializeEvents`. -/
theorem serializeClocksAddress : Obligations.SerializeClocksAddress := by
  intro s a low
  rw [serialize_eq a low]
  exact ⟨serializeEvents s.srData a, rfl, clockedBits_serializeEventsFrom a 24 s.srData,
    clockLevels_serializeEventsFrom a 24 s.srData, rfl, rfl, rfl, rfl, rfl, rfl, rfl, rfl⟩

/-! ## The transactions -/

/-- An address inside the SRAM is on the chip's 17 address lines. -/
theorem chipLines_of_lt {a : Addr} (inside : a.toNat < 0x20000) : (a.extractLsb' 0 17).toNat = a.toNat := by
  rw [BitVec.extractLsb'_toNat, Nat.shiftRight_zero]
  omega

/-- Settles O29: the edges of the transaction do `readByte` (`leads_readByte`). -/
theorem readByteLatchesMemory : Obligations.ReadByteLatchesMemory := by
  intro s reset mode hc bus quiet chip inside
  obtain ⟨oe, -, released, clock⟩ := quiet
  have value : readByteValue (byteAddr s) s = memRead s.mem (byteAddr s).toNat := by
    rw [readByteValue, if_pos ⟨chip, released⟩, chipLines_of_lt inside]
  have read := readByte_eq (byteAddr s) mode clock oe
  obtain ⟨-, k, hk⟩ := run_of_leads (leads_readByte hc bus read) ⟨reset, mode ▸ by decide⟩
  refine ⟨k, hk.trans ?_⟩
  simp [value, chip, released, oe, clock, bus]

theorem writeHead_label (s : State) : ∃ c, writeHead s = { s with ctl := c } := by
  unfold writeHead
  split_ifs <;> exact ⟨_, rfl⟩

/-- Settles O30: the edges of the transaction do `writeByte` (`leads_writeByte`), which writes one byte. -/
theorem writeByteCommitsByte : Obligations.WriteByteCommitsByte := by
  intro s reset mode hc bus clock enable driven inside
  have written := writeByte_eq (byteAddr s) s.data mode clock enable driven
  rw [chipLines_of_lt inside] at written
  obtain ⟨-, k, hk⟩ := run_of_leads (leads_writeByte hc bus written) ⟨reset, mode ▸ by decide⟩
  obtain ⟨c, label⟩ := writeHead_label _
  rw [label] at hk
  exact ⟨k, _, hk, rfl, rfl, rfl, driven, rfl, rfl, memRead_memWrite_same _ _ _,
    fun x other => memRead_memWrite_other _ _ other, rfl⟩

/-- Settles O31: the first edge of either transaction checks the mode. -/
theorem transactionsOutsideTheirModeFault : Obligations.TransactionsOutsideTheirModeFault := by
  refine fun s hr bus => ⟨fun hc mode => ?_, fun hc mode => ?_⟩
  · rw [step_eq_tick hr (fetch_of_ctl (by simp [hc]))]
    simp [tick, hc, tickRead, bus, mode]
  · rw [step_eq_tick hr (fetch_of_ctl (by simp [hc]))]
    simp [tick, hc, tickWrite, bus, mode]

/-- Settles O32: the mode is checked before anything but reset. -/
theorem illegalModeFaults : Obligations.IllegalModeFaults := by
  intro s reset illegal
  have mode : s.mode = modeIllegal := illegal
  simp [step, reset, mode]

/-! ## Settle delays -/

/-- The phases that count a settle delay. -/
abbrev Settling (s : State) : Prop :=
  s.ctl = .rRead ∧ (s.busPhase = .settleAddr ∨ s.busPhase = .settleEnable) ∨
    s.ctl = .wWrite ∧ (s.busPhase = .settleAddr ∨ s.busPhase = .settleEnable ∨ s.busPhase = .settleHold) ∨
    (s.ctl = .rRead ∨ s.ctl = .wWrite) ∧ s.busPhase = .serialize ∧
      (s.serPhase = .settleData ∨ s.serPhase = .settleRise ∨ s.serPhase = .settleFall)

theorem tickSettle_counting (next : State → State) {s : State} (counting : s.dly ≠ 0) :
    tickSettle next s = { s with dly := s.dly - 1 } := if_neg counting

/-- SERIALIZE is the transaction's edge in its first phase. -/
theorem tick_of_serialize {s : State} (label : s.ctl = .rRead ∨ s.ctl = .wWrite) (bus : s.busPhase = .serialize) :
    tick s = .go (tickAddress s) := by
  rcases label with hc | hc
  · simp [tick, hc, tickRead, bus]
  · simp [tick, hc, tickWrite, bus]

/-- While the counter is not 0 an edge of a settle delay only counts. -/
theorem tick_of_settling {s : State} (settling : Settling s) (counting : s.dly ≠ 0) :
    tick s = .go { s with dly := s.dly - 1 } := by
  obtain ⟨hc, bus | bus⟩ | ⟨hc, bus | bus | bus⟩ | ⟨label, bus, ser⟩ := settling
  · simp [tick, hc, tickRead, bus, tickSettle_counting _ counting]
  · simp [tick, hc, tickRead, bus, tickSettle_counting _ counting]
  · simp [tick, hc, tickWrite, bus, tickSettle_counting _ counting]
  · simp [tick, hc, tickWrite, bus, tickSettle_counting _ counting]
  · simp [tick, hc, tickWrite, bus, tickSettle_counting _ counting]
  · have counts : tickSerialize s = { s with dly := s.dly - 1 } := by
      rcases ser with ser | ser | ser <;> simp [tickSerialize, ser, tickSettle_counting _ counting]
    have busy : s.serPhase ≠ .idle := by rcases ser with ser | ser | ser <;> simp [ser]
    rw [tick_of_serialize label bus, tickAddress_eq, counts, addressDone, if_neg (by exact busy)]

theorem run_of_settling (n : Nat) {s : State} (hr : running s) (settling : Settling s) (inside : n ≤ s.dly) :
    run n s = .next { s with dly := s.dly - n } := by
  induction n generalizing s with
  | zero => rfl
  | succ n ih =>
    have away : s.ctl ≠ .sync 0 := by rcases settling with ⟨hc, -⟩ | ⟨hc, -⟩ | ⟨hc | hc, -⟩ <;> simp [hc]
    have counted : step s = .next { s with dly := s.dly - 1 } := by
      rw [step_eq_tick hr (fetch_of_ctl away), tick_of_settling settling (by omega), outcome_go]
    rw [run_succ_next n counted, ih (s := { s with dly := s.dly - 1 }) hr settling (Nat.le_sub_of_add_le inside),
      Nat.sub_sub, Nat.add_comm 1]

/-- Driving an enable loads the counter with the bus delay. -/
theorem tick_of_assertEnable {s t : State} (label : s.ctl = .rRead ∨ s.ctl = .wWrite) (bus : s.busPhase = .assertEnable)
    (edge : tick s = .go t) : t.busPhase = .settleEnable ∧ t.dly = s.cfg.settleBus := by
  rcases label with hc | hc
  · simp only [tick, hc, tickRead, bus] at edge
    cases edge
    exact ⟨rfl, rfl⟩
  · simp only [tick, hc, tickWrite, bus] at edge
    cases edge
    exact ⟨rfl, rfl⟩

/-- A change of `sr_data` or `sr_clk` loads the counter with the shift register's delay. -/
theorem tickAddress_of_edge {s : State} (ser : s.serPhase = .data ∨ s.serPhase = .rise ∨ s.serPhase = .fall) :
    (tickAddress s).dly = s.cfg.settleSr ∧ ((tickAddress s).serPhase = .settleData ∨
      (tickAddress s).serPhase = .settleRise ∨ (tickAddress s).serPhase = .settleFall) := by
  rcases ser with ser | ser | ser <;> simp [tickAddress_eq, addressDone, tickSerialize, ser]

theorem tickSerialize_busPhase_cfg (s : State) :
    (tickSerialize s).busPhase = s.busPhase ∧ (tickSerialize s).cfg = s.cfg := by
  unfold tickSerialize
  cases s.serPhase
  case idle | data | rise | fall => exact ⟨rfl, rfl⟩
  case settleData | settleRise =>
    unfold tickSettle
    split_ifs <;> exact ⟨rfl, rfl⟩
  case settleFall =>
    unfold tickSettle nextBit
    split_ifs <;> exact ⟨rfl, rfl⟩

/-- The end of SERIALIZE loads the counter with the bus delay. -/
theorem tickAddress_of_end {s : State} (bus : s.busPhase = .serialize) (left : (tickAddress s).busPhase ≠ .serialize) :
    (tickAddress s).busPhase = .settleAddr ∧ (tickAddress s).dly = s.cfg.settleBus := by
  obtain ⟨same, build⟩ := tickSerialize_busPhase_cfg s
  rw [tickAddress_eq] at left ⊢
  by_cases ended : (tickSerialize s).serPhase = .idle
  · rw [addressDone, if_pos ended]
    exact ⟨rfl, congrArg Config.Params.settleBus build⟩
  · rw [addressDone, if_neg ended] at left
    exact absurd (same.trans bus) left

/-- Settles O36: the phases that count, the edges that load the counter, and the default build's counts. -/
theorem settleDelayHolds : Obligations.SettleDelayHolds := by
  refine ⟨fun s n hr inside settling => run_of_settling n hr settling inside, fun s t label edge =>
    ⟨fun bus => tick_of_assertEnable label bus edge, fun bus ser => ?_, fun bus left => ?_, fun bus hc => ?_⟩,
    by decide⟩
  · cases (tick_of_serialize label bus).symm.trans edge
    exact tickAddress_of_edge ser
  · cases (tick_of_serialize label bus).symm.trans edge
    exact tickAddress_of_end bus left
  · simp only [tick, hc, tickWrite, bus] at edge
    cases edge
    exact ⟨rfl, rfl⟩

end Sys2Proof.Machine
end

section
/-! PROOFS. Edges of the controller at the host's streams (10_state.md R28, R29; 44_flow_control.md, sections 1 and
2). -/

namespace Sys2Proof.Machine

open Sys2Proof.Safety

/-! ## Bytes received -/

/-- Settles O52: the edges of the two token bytes, and the comparison. -/
theorem tokenEdges : Obligations.TokenEdges := by
  refine fun s hr => ⟨fun b rest ready host => ⟨fun hc => ?_, fun hc => ?_⟩, fun hc => ?_⟩
  · exact step_rx_take (store := fun b s => { s with tok0 := b, ctl := .rToken1 }) hr (fetch_of_ctl (by simp [hc]))
      (by simp only [tick, hc]) ready host
  · exact step_rx_take (store := fun b s => { s with tok1 := b, ctl := .rTokchk }) hr (fetch_of_ctl (by simp [hc]))
      (by simp only [tick, hc]) ready host
  · rw [step_eq_tick hr (fetch_of_ctl (by simp [hc]))]
    simp only [tick, hc, tickToken, tokenMatches_iff, outcome_go]
    rfl

/-- Settles O54: the edge is W_RECV's `RxByte()`. -/
theorem payloadByteEdge : Obligations.PayloadByteEdge := fun s _ _ hr hc ready host =>
  step_rx_take (store := fun b s => { s with data := b, ctl := .wWrite }) hr (fetch_of_ctl (by simp [hc]))
    (by simp only [tick, hc]) ready host

/-! ## The data byte of a Read -/

/-- The head of READ_WINDOWS after a data byte, written out. -/
theorem afterData_eq (u : State) :
    afterData u = if u.idx.toNat < u.endAddr.toNat - u.startAddr.toNat then
        { u with ctl := if u.idx.toNat % 32 = 0 then .rToken0 else .rRead }
      else offering .doneOk .ok 0x4F u := by
  by_cases inside : u.idx.toNat < u.endAddr.toNat - u.startAddr.toNat
  · have head : readHead u = { u with ctl := if u.idx.toNat % 32 = 0 then .rToken0 else .rRead } := by
      rw [readHead, rangeLen, if_pos inside]
      by_cases start : u.idx.toNat % 32 = 0
      · rw [if_pos ((atWindowStart_iff _).mpr start), if_pos start]
      · rw [if_neg (mt (atWindowStart_iff _).mp start), if_neg start]
    have goesOn : (readHead u).ctl ≠ .doneOk := by
      rw [head]
      split_ifs <;> simp
    rw [afterData, if_neg goesOn, if_pos inside, head]
  · have head : readHead u = { u with ctl := .doneOk } := by rw [readHead, rangeLen, if_neg inside]
    rw [afterData, head, if_pos rfl, if_neg inside]
    rfl

/-- Settles O53: the edge is R_SEND's `TxByte`, with the loop head after it (`afterData_eq`). -/
theorem dataByteEdges : Obligations.DataByteEdges := by
  intro s hr hc
  have edge : step s = .next (tickTx s.data readNext s) := by
    rw [step_eq_tick hr (fetch_of_ctl (by simp [hc]))]
    simp only [tick, hc, outcome_go]
  refine ⟨fun sent => ?_, fun offered accepts => ?_⟩
  · rw [edge, tickTx, if_neg (by simp [sent])]
    rfl
  · rw [edge, tickTx, if_pos offered, if_pos accepts, readNext_eq, afterData_eq]
    rfl

/-! ## Frames -/

/-- What the edge after a frame's last byte leaves alone; it leaves the label. -/
structure EndsFrame (s u : State) : Prop where
  trace : u.trace = s.trace
  frame : u.encFrame = s.encFrame
  sent : u.txValid = s.txValid
  label : u.ctl ≠ s.ctl
  memory : u.mem = s.mem
  channel : u.hostRx = s.hostRx
  mode : u.mode = s.mode

theorem endsFrame_readHead {s : State} (hc : s.ctl = .rAnnounce) : EndsFrame s (readHead { s with idx := 0 }) := by
  unfold readHead
  split_ifs <;> exact ⟨rfl, rfl, rfl, by simp [hc], rfl, rfl, rfl⟩

theorem endsFrame_afterErrorFrame {s : State} (hc : s.ctl = .errEmit) : EndsFrame s (afterErrorFrame s) := by
  unfold afterErrorFrame
  split_ifs <;> exact ⟨rfl, rfl, rfl, by simp [hc], rfl, rfl, rfl⟩

/-- At a label that emits a frame every edge is one of its emission. -/
theorem tick_of_frame {c : Ctl} {f : FrameKind} (frame : frameAt c = some f) :
    ∃ next, ∀ t : State, t.ctl = c → tick t = .go (tickEmit f next t) ∧ EndsFrame t (next t) := by
  cases c <;> simp only [frameAt, Option.some.injEq, reduceCtorEq] at frame <;> subst frame
  case sOk =>
    exact ⟨fun s => { s with ctl := .sync 0 }, fun t ht =>
      ⟨by simp only [tick, ht], rfl, rfl, rfl, by simp [ht], rfl, rfl, rfl⟩⟩
  case doneOk =>
    exact ⟨fun s => { s with ctl := .doneIdle }, fun t ht =>
      ⟨by simp only [tick, ht], rfl, rfl, rfl, by simp [ht], rfl, rfl, rfl⟩⟩
  case wGrant =>
    exact ⟨fun s => { s with ctl := .wRecv }, fun t ht =>
      ⟨by simp only [tick, ht], rfl, rfl, rfl, by simp [ht], rfl, rfl, rfl⟩⟩
  case rAnnounce =>
    exact ⟨fun s => readHead { s with idx := 0 }, fun t ht => ⟨by simp only [tick, ht], endsFrame_readHead ht⟩⟩
  case errEmit => exact ⟨afterErrorFrame, fun t ht => ⟨by simp only [tick, ht], endsFrame_afterErrorFrame ht⟩⟩

theorem drop_eq_getD_cons {bs : List Byte} {i : Nat} (inside : i < bs.length) :
    bs.drop i = bs.getD i 0 :: bs.drop (i + 1) := by
  rw [List.drop_eq_getElem_cons inside, List.getD_eq_getElem _ _ inside]

/-- The rest of a frame whose next byte is offered takes one edge for each byte. -/
theorem run_rest_of_frame {c : Ctl} {f : FrameKind} (frame : frameAt c = some f) (n : Nat) {s : State} (hr : running s)
    (hc : s.ctl = c) (offered : s.txValid = true) (accepts : s.txReady = true)
    (length : (frameBytes f s).length = s.encPos + (n + 1)) (data : s.txData = (frameBytes f s).getD s.encPos 0) :
    ∃ t, run (n + 1) s = .next t ∧ t.trace = s.trace ++ ((frameBytes f s).drop s.encPos).map Event.tx ∧
      t.encFrame = none ∧ t.txValid = false ∧ t.ctl ≠ c ∧ t.mem = s.mem ∧ t.hostRx = s.hostRx ∧ t.mode = s.mode := by
  obtain ⟨next, edges⟩ := tick_of_frame frame
  have away : c ≠ .sync 0 := fun h => by simp [h, frameAt] at frame
  have edge : ∀ s : State, running s → s.ctl = c → step s = .next (tickEmit f next s) := fun s hr hc => by
    rw [step_eq_tick hr (fetch_of_ctl (hc ▸ away)), (edges s hc).1, outcome_go]
  induction n generalizing s with
  | zero =>
    have last : (frameBytes f s)[s.encPos + 1]? = none := List.getElem?_eq_none (by omega)
    have rest : (frameBytes f s).drop (s.encPos + 1) = [] := List.drop_eq_nil_of_le (by omega)
    obtain ⟨-, ends⟩ := edges { byteTaken s with encFrame := none, encPos := 0 } hc
    have done := edge s hr hc
    rw [tickEmit_last next offered accepts last] at done
    refine ⟨_, (run_one s).trans done, ?_, ends.frame, ends.sent, hc ▸ ends.label, ends.memory, ends.channel, ends.mode⟩
    rw [ends.trace, drop_eq_getD_cons (by omega), ← data, rest]
    rfl
  | succ n ih =>
    have inside : s.encPos + 1 < (frameBytes f s).length := by omega
    have more : (frameBytes f s)[s.encPos + 1]? = some ((frameBytes f s).getD (s.encPos + 1) 0) := by
      rw [List.getElem?_eq_getElem inside, List.getD_eq_getElem _ _ inside]
    let u : State := offerByte ((frameBytes f s).getD (s.encPos + 1) 0)
      { byteTaken s with encFrame := some f, encPos := s.encPos + 1 }
    have sent : step s = .next u := by rw [edge s hr hc, tickEmit_more next offered accepts more]
    have same : frameBytes f u = frameBytes f s := frameBytes_congr f rfl rfl rfl
    have left : (frameBytes f s).length = s.encPos + 1 + (n + 1) := by omega
    obtain ⟨t, reached, trace, others⟩ := ih (s := u) hr hc rfl accepts (same ▸ left) (by rw [same]; rfl)
    refine ⟨t, by rw [run_succ_next _ sent, reached], ?_, others⟩
    rw [trace, same, drop_eq_getD_cons (i := s.encPos) (by omega), ← data]
    exact List.append_assoc ..

/-- Settles O38: at least one byte is left, and each takes one edge. -/
theorem frameResumesAfterWait : Obligations.FrameResumesAfterWait := by
  intro s f hr frame _ offered accepts inside data
  obtain ⟨n, hn⟩ : ∃ n, (frameBytes f s).length - s.encPos = n + 1 :=
    ⟨(frameBytes f s).length - s.encPos - 1, by omega⟩
  rw [hn]
  exact run_rest_of_frame frame n hr rfl offered accepts (by omega) data

end Sys2Proof.Machine
end

section
/-! PROOFS. The default build's messages (45_response_encoder.md, section 1). -/

namespace Sys2Proof.Machine

open Sys2Proof.Safety

theorem message_startOob_default (v : Addr) :
    message defaultParams .startOob v = textStarting ++ textOutOfBounds ++ dec v := by
  simp [defaultParams, boundMessage_parts]

theorem message_endOob_default (v : Addr) :
    message defaultParams .endOob v = textEnding ++ textOutOfBounds ++ dec v := by
  simp [defaultParams, boundMessage_parts]

/-- Non-empty printable ASCII (45_response_encoder.md R271). -/
abbrev Printable (bs : List Byte) : Prop := bs ≠ [] ∧ ∀ x ∈ bs, 0x20 ≤ x.toNat ∧ x.toNat ≤ 0x7E

/-- The digits of a value may follow a text. -/
theorem printable_append_dec {bs : List Byte} (v : Addr) (text : Printable bs) : Printable (bs ++ dec v) := by
  obtain ⟨nonempty, printable⟩ := text
  refine ⟨by simp [nonempty], fun x hx => ?_⟩
  rcases List.mem_append.mp hx with inText | digit
  · exact printable x inText
  · have := mem_decDigits digit
    omega

theorem printable_default (c : Cause) (v : Addr) (cause : c ≠ .none) : Printable (message defaultParams c v) := by
  cases c with
  | none => exact absurd rfl cause
  | startOob => rw [message_startOob_default]; exact printable_append_dec v (by decide)
  | endOob => rw [message_endOob_default]; exact printable_append_dec v (by decide)
  | rangeOrder => change Printable textRangeOrder; decide
  | flowDesync => change Printable textFlowDesync; decide
  | unknownCmd => change Printable textUnknownCmd; decide

/-- The first byte of each default message; they all differ. -/
def firstByte : Cause → Option Byte
  | .none => none
  | .startOob => some 0x53
  | .endOob => some 0x45
  | .rangeOrder => some 0x61
  | .flowDesync => some 0x75
  | .unknownCmd => some 0x55

theorem head?_message_default (c : Cause) (v : Addr) : (message defaultParams c v).head? = firstByte c := by
  cases c with
  | startOob => rw [message_startOob_default]; rfl
  | endOob => rw [message_endOob_default]; rfl
  | none | rangeOrder | flowDesync | unknownCmd => rfl

theorem firstByte_injective {c d : Cause} (h : firstByte c = firstByte d) : c = d := by
  cases c <;> cases d <;> simp [firstByte] at h ⊢

theorem message_default_ne {c d : Cause} (v w : Addr) (other : c ≠ d) :
    message defaultParams c v ≠ message defaultParams d w := fun same => other <| firstByte_injective <| by
  rw [← head?_message_default c v, same, head?_message_default]

theorem startOob_default_contains (v : Addr) :
    textStarting <:+: message defaultParams .startOob v ∧ dec v <:+: message defaultParams .startOob v := by
  rw [message_startOob_default, List.append_assoc]
  exact ⟨(List.prefix_append ..).isInfix, (List.suffix_append_of_suffix (List.suffix_append ..)).isInfix⟩

theorem endOob_default_contains (v : Addr) :
    textEnding <:+: message defaultParams .endOob v ∧ dec v <:+: message defaultParams .endOob v := by
  rw [message_endOob_default, List.append_assoc]
  exact ⟨(List.prefix_append ..).isInfix, (List.suffix_append_of_suffix (List.suffix_append ..)).isInfix⟩

theorem buildOk_default : buildOk defaultParams := by
  refine ⟨⟨fun c v reported => printable_default c v ?_, fun v _ => startOob_default_contains v,
    fun v _ => endOob_default_contains v, List.infix_rfl, fun c d v w _ other _ => message_default_ne v w other⟩,
    by decide, by decide⟩
  rintro rfl
  exact reported

/-- Settles O40: the messages are printable, contain what they must, and begin with different bytes. -/
theorem defaultMessages : Obligations.DefaultMessages := by
  refine ⟨buildOk_default, printable_default, fun v => ?_, fun c d v w _ other => message_default_ne v w other⟩
  obtain ⟨starting, startValue⟩ := startOob_default_contains v
  obtain ⟨ending, endValue⟩ := endOob_default_contains v
  exact ⟨starting, startValue, ending, endValue, rfl⟩

end Sys2Proof.Machine
end
